-- ==== Sys2Proof/Word.lean ====
section
/-! DEFINITION. The widths of PIXDP's bit vectors (00_scope.md R8). Pixel arithmetic is on `Nat` and
`Int` (40_fixed_point.md R120) and needs no word type. -/

namespace Sys2Proof

/-- One byte of memory; a cell of `T8` and of `SM`. -/
abbrev Byte := BitVec 8

/-- A 16-bit cell: a working channel, a mask word, a noise value, an operand register. -/
abbrev Half := BitVec 16

/-- The port's data width: a register as the host sees it, a command word. -/
abbrev Word := BitVec 32

/-- A byte address inside the 1 MiB aperture. -/
abbrev Addr := BitVec 20

/-- A slot field of a command word (30_encoding.md R91). -/
abbrev Slot := BitVec 4

end Sys2Proof
end

