-- ==== Sys2Proof/Syntax.lean ====
section
/-! DEFINITION. The 32 commands (30_encoding.md R92), one constructor per row of
spec/opcode_table.json. Operands stand in the order `HA`, `SA`, `SB`, `SC`; the destination first,
as in R110. Which memory a slot indexes is R93 (WellFormed.lean). -/

namespace Sys2Proof

/-- A decoded command word. -/
inductive Instr where
  /-- `NOP` (44_convert.md R241). -/
  | nop
  /-- `COMP.NORMAL` (41_composite.md R150). -/
  | compNormal (ha : Bool) (sa sb : Slot)
  /-- `COMP.MULTIPLY` (R151). -/
  | compMultiply (ha : Bool) (sa sb : Slot)
  /-- `COMP.SCREEN` (R152). -/
  | compScreen (ha : Bool) (sa sb : Slot)
  /-- `COMP.DARKEN` (R153). -/
  | compDarken (ha : Bool) (sa sb : Slot)
  /-- `COMP.LIGHTEN` (R154). -/
  | compLighten (ha : Bool) (sa sb : Slot)
  /-- `COMP.OVERLAY` (R155). -/
  | compOverlay (ha : Bool) (sa sb : Slot)
  /-- `COMP.HARDLIGHT` (R156). -/
  | compHardlight (ha : Bool) (sa sb : Slot)
  /-- `COMP.SOFTLIGHT` (R157). -/
  | compSoftlight (ha : Bool) (sa sb : Slot)
  /-- `COMP.COLORDODGE` (R158). -/
  | compColordodge (ha : Bool) (sa sb : Slot)
  /-- `COMP.COLORBURN` (R159). -/
  | compColorburn (ha : Bool) (sa sb : Slot)
  /-- `COMP.DIFFERENCE` (R160). -/
  | compDifference (ha : Bool) (sa sb : Slot)
  /-- `COMP.EXCLUSION` (R161). -/
  | compExclusion (ha : Bool) (sa sb : Slot)
  /-- `COMP.HUE` (R162). -/
  | compHue (ha : Bool) (sa sb : Slot)
  /-- `COMP.SATURATION` (R163). -/
  | compSaturation (ha : Bool) (sa sb : Slot)
  /-- `COMP.COLOR` (R164). -/
  | compColor (ha : Bool) (sa sb : Slot)
  /-- `COMP.LUMINOSITY` (R165). -/
  | compLuminosity (ha : Bool) (sa sb : Slot)
  /-- `DABN` (43_dab.md R210). -/
  | dabn (sa : Slot)
  /-- `DABE` (R211). -/
  | dabe (sa : Slot)
  /-- `DABL` (R212). -/
  | dabl (sa : Slot)
  /-- `DABACC` (R213). -/
  | dabacc (sa : Slot)
  /-- `CV16TO8` (44_convert.md R233). -/
  | cv16to8 (sa sb : Slot)
  /-- `CV16TO8X` (R234). -/
  | cv16to8x (sa sb : Slot)
  /-- `CV8TO16` (R235). -/
  | cv8to16 (sa sb : Slot)
  /-- `TCPY16` (R236). -/
  | tcpy16 (sa sb : Slot)
  /-- `TCLR16` (R237). -/
  | tclr16 (sa : Slot)
  /-- `TCPY8` (R239). -/
  | tcpy8 (sa sb : Slot)
  /-- `TCLR8` (R240). -/
  | tclr8 (sa : Slot)
  /-- `FLAT` (45_flatten.md R261). -/
  | flat (sa sb : Slot)
  /-- `UNFLAT` (R262). -/
  | unflat (sa sb : Slot)
  /-- `DOWNS` (46_downscale.md R271). -/
  | downs (sa sb : Slot)
  /-- `STRK` (47_stroke.md R281). -/
  | strk (sa sb sc : Slot)
deriving DecidableEq, Repr

end Sys2Proof
end

