-- ==== Sys2Proof/Decode.lean ====
section
/-! DEFINITION. Decoding a command word (30_encoding.md R91, R92, R97), total on every word and
rejecting by name; after it the encoder, from the same format. Every word the decoder rejects
raises `ILLEGAL_CMD` (R97): the names say which clause of R97 it breaks and nothing more (log 19). -/

namespace Sys2Proof

/-- Which clause of R97 a word breaks. -/
inductive Reject where
  /-- No instruction has this `OPC`. -/
  | undefinedOpcode
  /-- `Z1` or `Z2` is not zero. -/
  | reservedNotZero
  /-- `HA` is 1 outside `COMP.*`. -/
  | haNotZero
  /-- A slot field the instruction does not use is not zero. -/
  | unusedSlotNotZero
deriving DecidableEq, Repr

/-- The fields of a command word (R91). -/
structure Fields where
  opc : BitVec 8
  z1 : BitVec 7
  ha : BitVec 1
  z2 : BitVec 4
  sc : Slot
  sb : Slot
  sa : Slot
deriving DecidableEq, Repr

/-- The bit positions of R91. -/
def Fields.ofWord (w : Word) : Fields where
  opc := w.extractLsb' 24 8
  z1 := w.extractLsb' 17 7
  ha := w.extractLsb' 16 1
  z2 := w.extractLsb' 12 4
  sc := w.extractLsb' 8 4
  sb := w.extractLsb' 4 4
  sa := w.extractLsb' 0 4

/-- The masks of R97 differ in `HA` and the slot fields only: `Z1` and `Z2` are in every mask. -/
def Fields.guarded (f : Fields) (haUsed sbUsed scUsed saUsed : Bool) (i : Instr) :
    Except Reject Instr :=
  if f.z1 ≠ 0#7 ∨ f.z2 ≠ 0#4 then .error .reservedNotZero
  else if haUsed = false ∧ f.ha ≠ 0#1 then .error .haNotZero
  else if (scUsed = false ∧ f.sc ≠ 0#4) ∨ (sbUsed = false ∧ f.sb ≠ 0#4)
      ∨ (saUsed = false ∧ f.sa ≠ 0#4) then .error .unusedSlotNotZero
  else .ok i

/-- `NOP`: mask 0xFFFFFFFF. -/
def Fields.formNone (f : Fields) (i : Instr) : Except Reject Instr :=
  f.guarded false false false false i

/-- `COMP.*`: mask 0xFFFEFF00. -/
def Fields.formComp (f : Fields) (c : Bool → Slot → Slot → Instr) : Except Reject Instr :=
  f.guarded true true false true (c (f.ha == 1#1) f.sa f.sb)

/-- Mask 0xFFFFFFF0. -/
def Fields.formA (f : Fields) (c : Slot → Instr) : Except Reject Instr :=
  f.guarded false false false true (c f.sa)

/-- Mask 0xFFFFFF00. -/
def Fields.formAB (f : Fields) (c : Slot → Slot → Instr) : Except Reject Instr :=
  f.guarded false true false true (c f.sa f.sb)

/-- `STRK`: mask 0xFFFFF000. -/
def Fields.formABC (f : Fields) (c : Slot → Slot → Slot → Instr) : Except Reject Instr :=
  f.guarded false true true true (c f.sa f.sb f.sc)

/-- The opcode map of R92 with the masks of R97. -/
def Fields.decode (f : Fields) : Except Reject Instr :=
  match f.opc.toNat with
  | 0x00 => f.formNone .nop
  | 0x10 => f.formComp .compNormal
  | 0x11 => f.formComp .compMultiply
  | 0x12 => f.formComp .compScreen
  | 0x13 => f.formComp .compDarken
  | 0x14 => f.formComp .compLighten
  | 0x15 => f.formComp .compOverlay
  | 0x16 => f.formComp .compHardlight
  | 0x17 => f.formComp .compSoftlight
  | 0x18 => f.formComp .compColordodge
  | 0x19 => f.formComp .compColorburn
  | 0x1A => f.formComp .compDifference
  | 0x1B => f.formComp .compExclusion
  | 0x1C => f.formComp .compHue
  | 0x1D => f.formComp .compSaturation
  | 0x1E => f.formComp .compColor
  | 0x1F => f.formComp .compLuminosity
  | 0x30 => f.formA .dabn
  | 0x31 => f.formA .dabe
  | 0x32 => f.formA .dabl
  | 0x33 => f.formA .dabacc
  | 0x40 => f.formAB .cv16to8
  | 0x41 => f.formAB .cv16to8x
  | 0x42 => f.formAB .cv8to16
  | 0x43 => f.formAB .tcpy16
  | 0x44 => f.formA .tclr16
  | 0x45 => f.formAB .tcpy8
  | 0x46 => f.formA .tclr8
  | 0x50 => f.formAB .flat
  | 0x51 => f.formAB .unflat
  | 0x60 => f.formAB .downs
  | 0x70 => f.formABC .strk
  | _ => .error .undefinedOpcode

/-- R94 step 3: the row a command word matches, or why it matches none. -/
def decode (w : Word) : Except Reject Instr := (Fields.ofWord w).decode

/-- The command word with these fields, `Z1` and `Z2` zero (R91). -/
def commandWord (opc : BitVec 8) (ha : Bool) (sc sb sa : Slot) : Word :=
  opc ++ 0#7 ++ BitVec.ofBool ha ++ 0#4 ++ sc ++ sb ++ sa

/-- The command word of an instruction (R92, R93; R110 writes the same words out). -/
def encode : Instr → Word
  | .nop => commandWord 0x00 false 0 0 0
  | .compNormal ha sa sb => commandWord 0x10 ha 0 sb sa
  | .compMultiply ha sa sb => commandWord 0x11 ha 0 sb sa
  | .compScreen ha sa sb => commandWord 0x12 ha 0 sb sa
  | .compDarken ha sa sb => commandWord 0x13 ha 0 sb sa
  | .compLighten ha sa sb => commandWord 0x14 ha 0 sb sa
  | .compOverlay ha sa sb => commandWord 0x15 ha 0 sb sa
  | .compHardlight ha sa sb => commandWord 0x16 ha 0 sb sa
  | .compSoftlight ha sa sb => commandWord 0x17 ha 0 sb sa
  | .compColordodge ha sa sb => commandWord 0x18 ha 0 sb sa
  | .compColorburn ha sa sb => commandWord 0x19 ha 0 sb sa
  | .compDifference ha sa sb => commandWord 0x1A ha 0 sb sa
  | .compExclusion ha sa sb => commandWord 0x1B ha 0 sb sa
  | .compHue ha sa sb => commandWord 0x1C ha 0 sb sa
  | .compSaturation ha sa sb => commandWord 0x1D ha 0 sb sa
  | .compColor ha sa sb => commandWord 0x1E ha 0 sb sa
  | .compLuminosity ha sa sb => commandWord 0x1F ha 0 sb sa
  | .dabn sa => commandWord 0x30 false 0 0 sa
  | .dabe sa => commandWord 0x31 false 0 0 sa
  | .dabl sa => commandWord 0x32 false 0 0 sa
  | .dabacc sa => commandWord 0x33 false 0 0 sa
  | .cv16to8 sa sb => commandWord 0x40 false 0 sb sa
  | .cv16to8x sa sb => commandWord 0x41 false 0 sb sa
  | .cv8to16 sa sb => commandWord 0x42 false 0 sb sa
  | .tcpy16 sa sb => commandWord 0x43 false 0 sb sa
  | .tclr16 sa => commandWord 0x44 false 0 0 sa
  | .tcpy8 sa sb => commandWord 0x45 false 0 sb sa
  | .tclr8 sa => commandWord 0x46 false 0 0 sa
  | .flat sa sb => commandWord 0x50 false 0 sb sa
  | .unflat sa sb => commandWord 0x51 false 0 sb sa
  | .downs sa sb => commandWord 0x60 false 0 sb sa
  | .strk sa sb sc => commandWord 0x70 false sc sb sa

/-- The instruction the decoder reads from the low `nbits` bits of `w`; a command is one 32-bit
word (R90), so bits above 31 belong to no instruction. -/
def decodeTableWord (nbits w : Nat) : Option Instr :=
  if w % 2 ^ nbits < 2 ^ 32 then (decode (BitVec.ofNat 32 (w % 2 ^ nbits))).toOption else none

end Sys2Proof
end

