-- ==== Sys2Proof/Config.lean ====
section
/-! DEFINITION. The implementation parameters of 00_scope.md R7, and the reference noise table of
10_state.md R48. -/

namespace Sys2Proof.Config

/-- `TILE_N` (R7): the tile edge in pixels, fixed at 64 (log 6). -/
def tileN : Nat := 64

/-- `NPIX` (R7): pixels per tile. -/
def npix : Nat := tileN * tileN

/-- `H = N/2` (46_downscale.md R270). -/
def half : Nat := tileN / 2

/-- `FIX_ONE` (R7): fixed-point 1.0. -/
def one : Nat := 32768

/-- `NSLOT16` (R7). -/
def nslot16 : Nat := 4

/-- `NSLOT8` (R7). -/
def nslot8 : Nat := 2

/-- `NSM` (R7). -/
def nsm : Nat := 1

/-- `MASK_WORDS` (R7). -/
def maskWords : Nat := 2 * npix

/-- `NOISE_LEN` (R7). -/
def noiseLen : Nat := 2 * npix

/-- `NOISE_MIN` (R7, R44). -/
def noiseMin : Nat := 984

/-- `NOISE_MAX` (R7, R44). -/
def noiseMax : Nat := 31784

/-- `STRK_COLOR_DIV` (R7, R280). -/
def strkColorDiv : Nat := 16

/-- `STRK_ABS_DIV` (R7, R280). -/
def strkAbsDiv : Nat := 4

/-- `STRK_REL_MIN_DIV` (R7, R280). -/
def strkRelMinDiv : Nat := 64

/-- `STRK_REL_DIV` (R7, R280). -/
def strkRelDiv : Nat := 2

/-- `LUMA_R` (R7). -/
def lumaR : Nat := 9830

/-- `LUMA_G` (R7). -/
def lumaG : Nat := 19333

/-- `LUMA_B` (R7). -/
def lumaB : Nat := 3605

/-- `ID_VALUE` (R7, R22). -/
def idValue : Word := 0x4D595058#32

/-- The value of `CFG` (R23): log2 of `TILE_N`, then the three slot counts, four bits each. -/
def cfgValue : Word :=
  BitVec.ofNat 32 (tileN.log2 + nslot16 * 2 ^ 4 + nslot8 * 2 ^ 8 + nsm * 2 ^ 12)

/-! The address map of 20_memory.md R63 (for `TILE_N` = 64 that of R62), as offsets from the
aperture's base (log 9). -/

/-- `MASK` starts here and has `4·NPIX` bytes. -/
def maskBase : Nat := 0x10000

/-- `NOISE` starts here and has `4·NPIX` bytes. -/
def noiseBase : Nat := 0x20000

/-- `SM` slot `s` starts at `smBase + s·NPIX`. -/
def smBase : Nat := 0x30000

/-- `T8` slot `s` starts at `t8Base + s·4·NPIX`. -/
def t8Base : Nat := 0x40000

/-- `T16` slot `s` starts at `t16Base + s·8·NPIX`. -/
def t16Base : Nat := 0x80000

/-- What a byte of writable memory that nothing has written reads as. The spec leaves it open
(10_state.md R50, 93 U1): DESIGN CHOICE 0, unsafe (log 4). -/
def unwritten : Byte := 0#8

/-- The first `n` values of the generator of `NOISE_REF` (10_state.md R48) from state `s`. -/
def noiseGen : Nat → Nat → List Half
  | 0, _ => []
  | n + 1, s =>
    let s' := (s * 1103515245 + 12345) % 2 ^ 31
    BitVec.ofNat 16 (noiseMin + s' / 2 ^ 16 % 30801) :: noiseGen n s'

/-- `NOISE_REF` (10_state.md R48). -/
def noiseRef : List Half := noiseGen noiseLen 1

end Sys2Proof.Config
end

