-- ==== Sys2Proof/Machine/Fixed.lean ====
section
/-! DEFINITION. The fixed-point primitives of 40_fixed_point.md, on unbounded integers (R120). -/

namespace Sys2Proof.Machine

open Sys2Proof

/-- `mul(a, b) = (a · b) >> 15` (R121). -/
def mul (a b : Nat) : Nat := a * b / 2 ^ 15

/-- `div(a, b) = floor((a << 15) / b)` (R122). -/
def div (a b : Nat) : Nat := a * 2 ^ 15 / b

/-- `cdiv(n, b) = ceil(n / b)`, for `b > 0` (R122). -/
def cdiv (n b : Nat) : Nat := (n + (b - 1)) / b

/-- `fdiv(n, b) = floor(n / b)`, for any integer `n` and `b > 0` (R122). -/
def fdiv (n b : Int) : Int := Int.fdiv n b

/-- `clamp15(v) = min(v, 32768)` (R123). -/
def clamp15 (v : Nat) : Nat := min v Config.one

/-- `clamp(v, lo, hi)` (R123). -/
def clamp (v lo hi : Int) : Int := min hi (max lo v)

/-- The greatest `r + d` with `d < 2^k` and `(r + d)² ≤ n`, where `r² ≤ n`: one binary digit of the
root at a time. -/
def isqrtFrom (n : Nat) : Nat → Nat → Nat
  | 0, r => r
  | k + 1, r => if (r + 2 ^ k) * (r + 2 ^ k) ≤ n then isqrtFrom n k (r + 2 ^ k) else isqrtFrom n k r

/-- `isqrt(n) = floor(sqrt(n))` (R124); the root of `n` is below `2^(log2 n / 2 + 1)`. -/
def isqrt (n : Nat) : Nat := isqrtFrom n (n.log2 / 2 + 1) 0

/-- `unpremul(c, a)` (R125). -/
def unpremul (c a : Nat) : Nat := if a = 0 then 0 else clamp15 (div c a)

end Sys2Proof.Machine
end

