-- ==== Sys2Proof/Machine/State.lean ====
section
/-! DEFINITION. The architectural state (10_state.md R20 to R50) as plain data, the host events the
port serves, the port's answers, and the state after reset (70_reset_and_hazards.md R341 to R346). -/

namespace Sys2Proof.Machine

/-- The writable memories `MASK`, `SM`, `T8`, `T16` as one list of (byte offset, byte) pairs:
offsets strictly rising, no byte equal to `Config.unwritten`, which an unlisted offset reads as.
`Memory.wf` (Ops.lean) says so; Laws/Memory.lean proves that every operation keeps it. -/
abbrev Memory := List Host.Cell

/-- The access sizes of the port, in bytes (20_memory.md R60): 1, 2 or 4. -/
inductive Size where
  | b1
  | b2
  | b4
deriving DecidableEq, Repr

/-- `n` of `HostRead(addr, n)`. -/
def Size.bytes : Size → Nat
  | .b1 => 1
  | .b2 => 2
  | .b4 => 4

/-- What can reach the block from outside (R60, R83, R340; log 1, log 8). -/
inductive HostEvent where
  /-- `HRD addr, n`. -/
  | read (addr : Addr) (n : Size)
  /-- `HWR addr, n, v`; only the low `8·n` bits of `v` are on the port. -/
  | write (addr : Addr) (n : Size) (v : Word)
  /-- A reset event (R340). `contents` is what the writable memories hold after it: any value
  (R342, R344), so the event carries it (log 7). Cells outside them say nothing. -/
  | rst (contents : List Host.Cell)
deriving DecidableEq, Repr

/-- The port's answer to the last event served (R60; log 2). -/
inductive Answer where
  /-- No transaction has been served since reset (a reset event has no answer, R344). -/
  | none
  /-- `OK` to a write. -/
  | ok
  /-- `OK` to a read, with its data, zero-extended. -/
  | data (v : Word)
  /-- `ERROR`: the access was refused (R65); a refused read has no data. -/
  | error
deriving DecidableEq, Repr

/-- The whole state. The width of a register is the width kept by 10_state.md R21; `ID` and `CFG`
are constants and need no field (log 18). -/
structure State where
  /-- `STATUS` (R24): bit 0 `DONE`, bit 1 `ERR`. -/
  status : BitVec 2
  /-- `IRQ_EN` (R25): bit 0 `DONE_IE`, bit 1 `ERR_IE`. -/
  irqEn : BitVec 2
  /-- `CMD` (R27): the last command word accepted. -/
  cmd : Word
  /-- `ERR_CODE` (R28). -/
  errCode : BitVec 4
  /-- `ERR_INFO` (R29): `IDX` 15:0, `CH` 17:16, `OPND` 21:20. -/
  errInfo : BitVec 22
  /-- `OPACITY` (R30). -/
  opacity : Half
  /-- `COLOR_R` (R31). -/
  colorR : Half
  /-- `COLOR_G` (R31). -/
  colorG : Half
  /-- `COLOR_B` (R31). -/
  colorB : Half
  /-- `COLOR_A` (R31). -/
  colorA : Half
  /-- `DST_X` (R32). -/
  dstX : Half
  /-- `DST_Y` (R32). -/
  dstY : Half
  /-- `ACC_W` (R34). -/
  accW : BitVec 64
  /-- `ACC_R` (R34). -/
  accR : BitVec 64
  /-- `ACC_G` (R34). -/
  accG : BitVec 64
  /-- `ACC_B` (R34). -/
  accB : BitVec 64
  /-- `ACC_A` (R34). -/
  accA : BitVec 64
  /-- `MASK`, `SM`, `T8`, `T16` (R40 to R43). -/
  mem : Memory
  /-- `NOISE` (R44): a ROM, the parameter `NOISE` (log 5). -/
  noise : List Half
  /-- The host events not yet served, oldest first: the model's own field (log 1). -/
  inbox : List HostEvent
  /-- The port's last answer: the model's own field (log 2). -/
  answer : Answer
deriving DecidableEq, Repr

/-- Stops with a fault: NONE. A violation the spec names is recorded in `ERR_CODE` and `ERR_INFO`
and the machine goes on (60_exceptions.md R306), a refused access is answered `ERROR` (20_memory.md
R65); both are next states, so this type has no constructor (log 17). Safe. -/
inductive Fault where
deriving DecidableEq, Repr

/-- Refusals of the model itself. -/
inductive Refusal where
  /-- Raised by an arm of `exec` whose instruction has no meaning yet; no arm does. Safe. -/
  | notModelled (mnemonic : String)
deriving DecidableEq, Repr

/-- The state right after a reset event (70_reset_and_hazards.md R341 to R346): every register 0,
the noise ROM as it was, the writable memories holding `mem`. -/
def State.afterReset (noise : List Half) (mem : Memory) (inbox : List HostEvent) : State where
  status := 0
  irqEn := 0
  cmd := 0
  errCode := 0
  errInfo := 0
  opacity := 0
  colorR := 0
  colorG := 0
  colorB := 0
  colorA := 0
  dstX := 0
  dstY := 0
  accW := 0
  accR := 0
  accG := 0
  accB := 0
  accA := 0
  mem := mem
  noise := noise
  inbox := inbox
  answer := .none

/-- The machine right after reset, with the reference noise table (log 5), nothing listed in the
writable memories (log 4) and no host event waiting (log 1). -/
def State.reset : State := State.afterReset Config.noiseRef [] []

end Sys2Proof.Machine
end

