-- ==== Sys2Proof/Machine/Memory.lean ====
section
/-! DEFINITION. The byte memory and the wider accesses built from it, little-endian (20_memory.md
R66). -/

namespace Sys2Proof.Machine

open Sys2Proof

/-- The byte at offset `a`; an unlisted one reads as `Config.unwritten`. -/
def Memory.read : Memory → Nat → Byte
  | [], _ => Config.unwritten
  | c :: rest, a => if c.1 = a then c.2 else Memory.read rest a

/-- The list without offset `a`. -/
def Memory.erase (m : Memory) (a : Nat) : Memory := m.filter fun c => c.1 ≠ a

/-- The list with `(a, b)` in its place. -/
def Memory.insert : Memory → Nat → Byte → Memory
  | [], a, b => [(a, b)]
  | c :: rest, a, b =>
    if a < c.1 then (a, b) :: c :: rest
    else if a = c.1 then (a, b) :: rest
    else c :: Memory.insert rest a b

/-- Store byte `b` at offset `a`, in canonical form. -/
def Memory.write (m : Memory) (a : Nat) (b : Byte) : Memory :=
  if b = Config.unwritten then m.erase a else m.insert a b

/-- The canonical form: offsets strictly rising, no entry that an unlisted offset reads as. -/
def Memory.wf : Memory → Bool
  | [] => true
  | c :: rest =>
    decide (c.2 ≠ Config.unwritten) && rest.all (fun d => decide (c.1 < d.1)) && Memory.wf rest

/-- The byte at `a` as a number. -/
def Memory.read8 (m : Memory) (a : Nat) : Nat := (m.read a).toNat

/-- A 16-bit cell at an even address: `byte(a) + 256·byte(a+1)` (R66). -/
def Memory.read16 (m : Memory) (a : Nat) : Nat := m.read8 a + 256 * m.read8 (a + 1)

/-- Store the low 8 bits of `v` (no command stores more: 40_fixed_point.md R130, log 12). -/
def Memory.write8 (m : Memory) (a v : Nat) : Memory := m.write a (BitVec.ofNat 8 v)

/-- `MemWrite(addr, n, v)`: byte `(v >> 8j) mod 256` at `addr + j` for `j = 0 .. n−1` (R66). -/
def Memory.writeBytes (m : Memory) (a : Nat) : Nat → Nat → Memory
  | 0, _ => m
  | n + 1, v => Memory.writeBytes (m.write8 a v) (a + 1) n (v / 256)

/-- A 16-bit cell at an even address. -/
def Memory.write16 (m : Memory) (a v : Nat) : Memory := (m.write8 a v).write8 (a + 1) (v / 256)

end Sys2Proof.Machine
end

