-- ==== Sys2Proof/WellFormed.lean ====
section
/-! DEFINITION. The well-formed instructions: those whose slot numbers all exist (30_encoding.md
R93). The types of Syntax.lean already confine each field to the values its bits admit, so every
`Instr` has a command word; one that is not well-formed raises `BAD_SLOT` when it is run. -/

namespace Sys2Proof

/-- The memories a slot field can index (R93). -/
inductive MemKind where
  | t16
  | t8
  | sm
deriving DecidableEq, Repr

/-- How many slots a memory has (00_scope.md R7). -/
def MemKind.slots : MemKind → Nat
  | .t16 => Config.nslot16
  | .t8 => Config.nslot8
  | .sm => Config.nsm

/-- The slot fields an instruction uses, in the order `SA`, `SB`, `SC`, each with the memory it
indexes: the table of R93. -/
def Instr.slotFields : Instr → List (MemKind × Slot)
  | .nop => []
  | .compNormal _ sa sb | .compMultiply _ sa sb | .compScreen _ sa sb | .compDarken _ sa sb
  | .compLighten _ sa sb | .compOverlay _ sa sb | .compHardlight _ sa sb
  | .compSoftlight _ sa sb | .compColordodge _ sa sb | .compColorburn _ sa sb
  | .compDifference _ sa sb | .compExclusion _ sa sb | .compHue _ sa sb
  | .compSaturation _ sa sb | .compColor _ sa sb | .compLuminosity _ sa sb =>
    [(.t16, sa), (.t16, sb)]
  | .dabn sa | .dabe sa | .dabl sa | .dabacc sa => [(.t16, sa)]
  | .cv16to8 sa sb | .cv16to8x sa sb => [(.t8, sa), (.t16, sb)]
  | .cv8to16 sa sb => [(.t16, sa), (.t8, sb)]
  | .tcpy16 sa sb => [(.t16, sa), (.t16, sb)]
  | .tclr16 sa => [(.t16, sa)]
  | .tcpy8 sa sb => [(.t8, sa), (.t8, sb)]
  | .tclr8 sa => [(.t8, sa)]
  | .flat sa sb | .unflat sa sb | .downs sa sb => [(.t16, sa), (.t16, sb)]
  | .strk sa sb sc => [(.sm, sa), (.t16, sb), (.t16, sc)]

/-- A slot field is legal when less than the slot count of the memory it indexes (R93). -/
def slotLegal (f : MemKind × Slot) : Bool := decide (f.2.toNat < f.1.slots)

/-- Every slot field of the instruction names a slot that exists. -/
def Instr.wellFormed (i : Instr) : Bool := i.slotFields.all slotLegal

end Sys2Proof
end

