-- ==== Sys2Proof/Machine/Operands.lean ====
section
/-! DEFINITION. The operands of the commands: pixels and cells at the addresses of the typed views
(20_memory.md R70 to R74), the operand checks (60_exceptions.md R310, R311) and the fault records
they give (R301, R302). -/

namespace Sys2Proof.Machine

open Sys2Proof

/-- A colour triple, each channel a mathematical integer (40_fixed_point.md R120). -/
structure Rgb where
  r : Nat
  g : Nat
  b : Nat
deriving DecidableEq, Repr

/-- A pixel `(R, G, B, A)` of either encoding (00_scope.md R10). -/
structure Pixel where
  r : Nat
  g : Nat
  b : Nat
  a : Nat
deriving DecidableEq, Repr

/-- The three colour channels. -/
def Pixel.rgb (p : Pixel) : Rgb := ⟨p.r, p.g, p.b⟩

/-! ### Fault records -/

/-- The causes of 60_exceptions.md R301; exactly the ten values 0 to 9 (93 U8). -/
inductive Cause where
  | none
  | illegalCmd
  | badSlot
  | badParam
  | slotAlias
  | pixRange
  | pixPremul
  | maskValue
  | maskRange
  | maskOverrun
deriving DecidableEq, Repr

/-- The code recorded in `ERR_CODE` (R301). -/
def Cause.code : Cause → Nat
  | .none => 0
  | .illegalCmd => 1
  | .badSlot => 2
  | .badParam => 3
  | .slotAlias => 4
  | .pixRange => 5
  | .pixPremul => 6
  | .maskValue => 7
  | .maskRange => 8
  | .maskOverrun => 9

/-- The operand a fault is charged to, as `OPND` counts it (R302). -/
inductive Operand where
  | a
  | b
  | c
  | mask
deriving DecidableEq, Repr

/-- The value of the field `OPND` (R302): the slot fields 0, 1, 2; the mask 3. -/
def Operand.code : Operand → Nat
  | .a => 0
  | .b => 1
  | .c => 2
  | .mask => 3

/-- What `raise` records (R306): a cause with the fields of `ERR_INFO`. -/
structure FaultRec where
  cause : Cause
  idx : Nat
  ch : Nat
  opnd : Nat
deriving DecidableEq, Repr

/-- `ERR_INFO` as a number (10_state.md R29): `IDX` at bit 0, `CH` at bit 16, `OPND` at bit 20. -/
def FaultRec.info (f : FaultRec) : BitVec 22 :=
  BitVec.ofNat 2 f.opnd ++ 0#2 ++ BitVec.ofNat 2 f.ch ++ BitVec.ofNat 16 f.idx

/-! ### Typed views -/

/-- The address of `T16[s][i][ch]` (R70). -/
def t16Addr (s : Slot) (i ch : Nat) : Nat :=
  Config.t16Base + s.toNat * (8 * Config.npix) + 8 * i + 2 * ch

/-- The address of `T8[s][i][ch]` (R71). -/
def t8Addr (s : Slot) (i ch : Nat) : Nat :=
  Config.t8Base + s.toNat * (4 * Config.npix) + 4 * i + ch

/-- The address of `SM[s][i]` (R72). -/
def smAddr (s : Slot) (i : Nat) : Nat := Config.smBase + s.toNat * Config.npix + i

/-- The address of `MASK[m]` (R73). -/
def maskAddr (m : Nat) : Nat := Config.maskBase + 2 * m

/-- The address of `NOISE[k]` (R74). -/
def noiseAddr (k : Nat) : Nat := Config.noiseBase + 2 * k

/-- `T16[s][i][ch]` (R70). -/
def Memory.t16 (m : Memory) (s : Slot) (i ch : Nat) : Nat := m.read16 (t16Addr s i ch)

/-- `T16[s][i]` (R70). -/
def Memory.pixel16 (m : Memory) (s : Slot) (i : Nat) : Pixel :=
  ⟨m.t16 s i 0, m.t16 s i 1, m.t16 s i 2, m.t16 s i 3⟩

/-- `T8[s][i][ch]` (R71). -/
def Memory.t8 (m : Memory) (s : Slot) (i ch : Nat) : Nat := m.read8 (t8Addr s i ch)

/-- `T8[s][i]` (R71). -/
def Memory.pixel8 (m : Memory) (s : Slot) (i : Nat) : Pixel :=
  ⟨m.t8 s i 0, m.t8 s i 1, m.t8 s i 2, m.t8 s i 3⟩

/-- `SM[s][i]` (R72). -/
def Memory.sm (m : Memory) (s : Slot) (i : Nat) : Nat := m.read8 (smAddr s i)

/-- `MASK[j]` (R73). -/
def Memory.mask (m : Memory) (j : Nat) : Nat := m.read16 (maskAddr j)

/-- `T16[s][i][ch] <- v` (R70). -/
def Memory.setT16 (m : Memory) (s : Slot) (i ch v : Nat) : Memory := m.write16 (t16Addr s i ch) v

/-- `T16[s][i][0..2] <- c`: the alpha cell is not written. -/
def Memory.setColour16 (m : Memory) (s : Slot) (i : Nat) (c : Rgb) : Memory :=
  ((m.setT16 s i 0 c.r).setT16 s i 1 c.g).setT16 s i 2 c.b

/-- `T16[s][i] <- p`. -/
def Memory.setPixel16 (m : Memory) (s : Slot) (i : Nat) (p : Pixel) : Memory :=
  (m.setColour16 s i p.rgb).setT16 s i 3 p.a

/-- `T8[s][i][ch] <- v` (R71). -/
def Memory.setT8 (m : Memory) (s : Slot) (i ch v : Nat) : Memory := m.write8 (t8Addr s i ch) v

/-- `T8[s][i] <- p`. -/
def Memory.setPixel8 (m : Memory) (s : Slot) (i : Nat) (p : Pixel) : Memory :=
  (((m.setT8 s i 0 p.r).setT8 s i 1 p.g).setT8 s i 2 p.b).setT8 s i 3 p.a

/-- `SM[s][i] <- v` (R72). -/
def Memory.setSm (m : Memory) (s : Slot) (i v : Nat) : Memory := m.write8 (smAddr s i) v

/-- `NOISE[k]` through the cyclic index of 44_convert.md R232. A cell past the end of a table that
is too short reads 0; `State.Inv` (Safety.lean) rules such tables out (log 13). -/
def noiseAt (noise : List Half) (k : Nat) : Nat := (noise.getD (k % Config.noiseLen) 0).toNat

/-! ### Operand checks -/

/-- The check levels of R310. -/
inductive Level where
  /-- Each of R, G, B at most 32768; the alpha cell plays no part. -/
  | range3
  /-- Each of R, G, B, A at most 32768. -/
  | range4
  /-- `range4`, and each of R, G, B at most A. -/
  | premul
deriving DecidableEq, Repr

/-- The position of the first cell above `limit`. -/
def firstAbove (limit : Nat) : List Nat → Option Nat
  | [] => none
  | v :: rest => if v > limit then some 0 else (firstAbove limit rest).map (· + 1)

/-- The first channel above 32768, among those the level covers, in the order R, G, B, A (R311). -/
def Pixel.rangeFault (p : Pixel) : Level → Option Nat
  | .range3 => firstAbove Config.one [p.r, p.g, p.b]
  | .range4 | .premul => firstAbove Config.one [p.r, p.g, p.b, p.a]

/-- The first colour channel above alpha, where the level asks (R310). -/
def Pixel.premulFault (p : Pixel) : Level → Option Nat
  | .range3 | .range4 => none
  | .premul => firstAbove p.a [p.r, p.g, p.b]

/-- Check a working pixel read as an operand: the range comparisons, and only if all pass the
premultiplied ones (R310, R311); `idx` and `opnd` as R302 says. -/
def Pixel.check (p : Pixel) (level : Level) (opnd : Operand) (idx : Nat) : Option FaultRec :=
  match p.rangeFault level with
  | some ch => some ⟨.pixRange, idx, ch, opnd.code⟩
  | none =>
    match p.premulFault level with
    | some ch => some ⟨.pixPremul, idx, ch, opnd.code⟩
    | none => none

/-! ### Slot checks -/

/-- `BAD_SLOT` for the first field, counted from `n`, that names no slot (30_encoding.md R94 step 4,
R302). Every instruction uses its fields from `SA` on, so the position is `OPND`. -/
def badSlotFrom : Nat → List (MemKind × Slot) → Option FaultRec
  | _, [] => none
  | n, f :: rest =>
    if f.2.toNat ≥ f.1.slots then some ⟨.badSlot, 0, 0, n⟩ else badSlotFrom (n + 1) rest

end Sys2Proof.Machine
end

