-- ==== Sys2Proof/Machine/Blend.lean ====
section
/-! DEFINITION. The blend-mode library (42_blend_modes.md). Arguments in the order of R171: the
backdrop `cb` first, the source `cs` second. -/

namespace Sys2Proof.Machine

open Sys2Proof

/-- A separable mode acts on R, G and B independently (R171). -/
def separable (f : Nat → Nat → Nat) (cb cs : Rgb) : Rgb := ⟨f cb.r cs.r, f cb.g cs.g, f cb.b cs.b⟩

/-! ### Helper functions -/

/-- `hard(b, s)` (R172). -/
def hard (b s : Nat) : Nat :=
  let two := 2 * s
  if two ≤ Config.one then mul b two
  else
    let t := two - Config.one
    b + t - mul b t

/-- `Lum(c)` (R173). -/
def lum (c : Rgb) : Nat :=
  (Config.lumaR * c.r + Config.lumaG * c.g + Config.lumaB * c.b) / 2 ^ 15

/-- The greatest channel. -/
def Rgb.max3 (c : Rgb) : Nat := max c.r (max c.g c.b)

/-- The least channel. -/
def Rgb.min3 (c : Rgb) : Nat := min c.r (min c.g c.b)

/-- `Sat(c)` (R174). -/
def sat (c : Rgb) : Nat := c.max3 - c.min3

/-- `SetSat(c, s)` (R175). -/
def setSat (c : Rgb) (s : Nat) : Rgb :=
  let mx := c.max3
  let mn := c.min3
  if mx > mn then
    ⟨(c.r - mn) * s / (mx - mn), (c.g - mn) * s / (mx - mn), (c.b - mn) * s / (mx - mn)⟩
  else ⟨0, 0, 0⟩

/-- One channel of the clip of `SetLum` (R176): `n` and `x` are the least and the greatest channel
of the shifted colour, `l` the luminosity; the test `n < 0` comes first. -/
def clipChannel (n x l v : Int) : Int :=
  if n < 0 then l + fdiv ((v - l) * l) (l - n)
  else if x > 32768 then l + fdiv ((v - l) * (32768 - l)) (x - l)
  else v

/-- `SetLum(c, l)` (R176); every intermediate is signed. -/
def setLum (c : Rgb) (l : Nat) : Rgb :=
  let d : Int := (l : Int) - (lum c : Int)
  let r : Int := (c.r : Int) + d
  let g : Int := (c.g : Int) + d
  let b : Int := (c.b : Int) + d
  let n := min r (min g b)
  let x := max r (max g b)
  ⟨(clamp (clipChannel n x l r) 0 32768).toNat,
   (clamp (clipChannel n x l g) 0 32768).toNat,
   (clamp (clipChannel n x l b) 0 32768).toNat⟩

/-! ### Separable modes -/

/-- Mode 0, Normal (R180). The compositing engine uses R150 instead. -/
def blendNormal (_cb cs : Nat) : Nat := cs

/-- Mode 1, Multiply (R181). -/
def blendMultiply (cb cs : Nat) : Nat := mul cs cb

/-- Mode 2, Screen (R182). -/
def blendScreen (cb cs : Nat) : Nat := cs + cb - mul cs cb

/-- Mode 3, Darken (R183). -/
def blendDarken (cb cs : Nat) : Nat := min cs cb

/-- Mode 4, Lighten (R184). -/
def blendLighten (cb cs : Nat) : Nat := max cs cb

/-- Mode 5, Overlay (R185): the backdrop chooses the branch. -/
def blendOverlay (cb cs : Nat) : Nat := hard cs cb

/-- Mode 6, HardLight (R186): the source chooses the branch. -/
def blendHardlight (cb cs : Nat) : Nat := hard cb cs

/-- `D(cb)` of mode 7 (R187). -/
def softlightD (cb : Nat) : Nat :=
  if cb ≤ 8192 then mul cb (16 * mul cb cb + 131072 - 12 * cb) else isqrt (cb * 2 ^ 15)

/-- Mode 7, SoftLight (R187). -/
def blendSoftlight (cb cs : Nat) : Nat :=
  let two := 2 * cs
  if two ≤ Config.one then cb - mul (mul (Config.one - two) cb) (Config.one - cb)
  else cb + mul (two - Config.one) (softlightD cb - cb)

/-- Mode 8, ColorDodge (R188): the backdrop is tested first. -/
def blendColordodge (cb cs : Nat) : Nat :=
  if cb = 0 then 0
  else if cs ≥ Config.one then Config.one
  else min Config.one (div cb (Config.one - cs))

/-- Mode 9, ColorBurn (R189): the backdrop is tested first. -/
def blendColorburn (cb cs : Nat) : Nat :=
  if cb ≥ Config.one then Config.one
  else if cs = 0 then 0
  else Config.one - min Config.one (div (Config.one - cb) cs)

/-- Mode 10, Difference (R190). -/
def blendDifference (cb cs : Nat) : Nat := if cs > cb then cs - cb else cb - cs

/-- Mode 11, Exclusion (R191). -/
def blendExclusion (cb cs : Nat) : Nat := cb + cs - 2 * mul cb cs

/-! ### Non-separable modes -/

/-- Mode 12, Hue (R192). -/
def blendHue (cb cs : Rgb) : Rgb := setLum (setSat cs (sat cb)) (lum cb)

/-- Mode 13, Saturation (R193). -/
def blendSaturation (cb cs : Rgb) : Rgb := setLum (setSat cb (sat cs)) (lum cb)

/-- Mode 14, Color (R194). -/
def blendColor (cb cs : Rgb) : Rgb := setLum cs (lum cb)

/-- Mode 15, Luminosity (R195). -/
def blendLuminosity (cb cs : Rgb) : Rgb := setLum cb (lum cs)

end Sys2Proof.Machine
end

