-- ==== Sys2Proof/Machine/Flags.lean ====
section
/-! DEFINITION. The two flags of the block, `DONE` and `ERR` (10_state.md R24), and the interrupt
line computed from them (R25, 60_exceptions.md R320). There are no other flags (R24). -/

namespace Sys2Proof.Machine

open Sys2Proof

/-- `STATUS.DONE` (R24). -/
def State.done (s : State) : Bool := s.status.getLsbD 0

/-- `STATUS.ERR` (R24). -/
def State.err (s : State) : Bool := s.status.getLsbD 1

/-- `IRQ_EN.DONE_IE` (R25). -/
def State.doneIe (s : State) : Bool := s.irqEn.getLsbD 0

/-- `IRQ_EN.ERR_IE` (R25). -/
def State.errIe (s : State) : Bool := s.irqEn.getLsbD 1

/-- `STATUS.DONE <- 1`, sticky (30_encoding.md R96). -/
def State.setDone (s : State) : State := { s with status := s.status ||| 1#2 }

/-- A host write of `v` to `STATUS` (R24): each flag whose bit is written as 1 is cleared; clearing
`ERR` also clears `ERR_CODE` and `ERR_INFO`, which is how the host leaves the fault state
(60_exceptions.md R309). -/
def State.writeStatus (s : State) (v : Word) : State :=
  { s with
    status := s.status &&& ~~~(v.extractLsb' 0 2)
    errCode := if v.getLsbD 1 then 0 else s.errCode
    errInfo := if v.getLsbD 1 then 0 else s.errInfo }

/-- The output `irq` (R25, R320): a level, a function of the state. -/
def State.irq (s : State) : Bool := (s.done && s.doneIe) || (s.err && s.errIe)

end Sys2Proof.Machine
end

