-- ==== Sys2Proof/Machine/Ops.lean ====
section
/-! DEFINITION. The operations every command shares: taking a fault (60_exceptions.md R306), running
a command after its decode (30_encoding.md R94 steps 4 to 7), the per-pixel scan with its precise
partial results (R307), and the mask traversal (43_dab.md R202). -/

namespace Sys2Proof.Machine

open Sys2Proof

/-- `raise Cause(info)` (R306): the one fault entry. `DONE` and everything else stay; the command
word is already in `CMD`. Leaving the fault state is `State.writeStatus` (R309). -/
def State.raise (s : State) (f : FaultRec) : State :=
  { s with
    errCode := BitVec.ofNat 4 f.cause.code
    errInfo := f.info
    status := s.status ||| 2#2 }

/-- The end of a command: `DONE` (R96), or its first fault (R306). -/
def State.finish (s : State) : Option FaultRec → State
  | none => s.setDone
  | some f => s.raise f

/-- R94 steps 4 to 7: the slot check, then `body` (pre-checks and data phase), which answers the
state it leaves and the fault it raised, if any. -/
def State.command (s : State) (slots : List (MemKind × Slot))
    (body : State → State × Option FaultRec) : State :=
  match badSlotFrom 0 slots with
  | some f => s.raise f
  | none => (body s).1.finish (body s).2

/-- The state with another memory. -/
def State.withMem (s : State) (m : Memory) : State := { s with mem := m }

/-- A data phase that reads and writes the writable memories only. -/
def State.overMem (s : State) (f : Memory → Memory × Option FaultRec) : State × Option FaultRec :=
  (s.withMem (f s.mem).1, (f s.mem).2)

/-- Run `body` at the scan positions `i, i+1, .., i+n−1` in that order. A position either writes its
results or raises a fault and writes nothing; the first fault ends the scan (R306, R307). -/
def scanFrom {σ : Type} (body : Nat → σ → Except FaultRec σ) : Nat → Nat → σ → σ × Option FaultRec
  | _, 0, x => (x, none)
  | i, n + 1, x =>
    match body i x with
    | .error f => (x, some f)
    | .ok x' => scanFrom body (i + 1) n x'

/-- The scan of a whole tile, pixels `0 .. NPIX−1` ascending. -/
def scanTile {σ : Type} (body : Nat → σ → Except FaultRec σ) (x : σ) : σ × Option FaultRec :=
  scanFrom body 0 Config.npix x

/-- A mask fault: `CH` 0, `OPND` 3 (R302). -/
def maskFault (c : Cause) (idx : Nat) : FaultRec := ⟨c, idx, 0, Operand.mask.code⟩

/-- The mask traversal of R202 from word `m` and pixel `p`, where `left` words of `MASK` remain from
`m` on (so `m ≥ MASK_WORDS` is `left = 0`). One turn handles one run value, or one sentinel with
its skip count; `process p v` is the command's action on a pixel. -/
def maskWalk {σ : Type} (mask : Nat → Nat) (process : Nat → Nat → σ → Except FaultRec σ) :
    Nat → Nat → Nat → σ → σ × Option FaultRec
  | 0, m, _, x => (x, some (maskFault .maskOverrun m))
  | left + 1, m, p, x =>
    if mask m = 0 then
      match left with
      | 0 => (x, some (maskFault .maskOverrun (m + 1)))
      | left' + 1 =>
        if mask (m + 1) = 0 then (x, none)
        else if p + mask (m + 1) > Config.npix then (x, some (maskFault .maskRange (m + 1)))
        else maskWalk mask process left' (m + 2) (p + mask (m + 1)) x
    else if mask m > Config.one then (x, some (maskFault .maskValue m))
    else if p ≥ Config.npix then (x, some (maskFault .maskRange m))
    else
      match process p (mask m) x with
      | .error f => (x, some f)
      | .ok x' => maskWalk mask process left (m + 1) (p + 1) x'

/-- The traversal of the whole mask: `m <- 0 ; p <- 0` (R202). -/
def walkMask {σ : Type} (m : Memory) (process : Nat → Nat → σ → Except FaultRec σ) (x : σ) :
    σ × Option FaultRec :=
  maskWalk m.mask process Config.maskWords 0 0 x

/-- An operand check as the step of a scan: its fault, or go on with `k`. -/
def checked {σ : Type} (f : Option FaultRec) (k : σ) : Except FaultRec σ :=
  match f with
  | some e => .error e
  | none => .ok k

end Sys2Proof.Machine
end

