-- ==== Sys2Proof/Machine/Composite.lean ====
section
/-! DEFINITION. The tile compositing engine (41_composite.md): the common procedure of R142 and the
sixteen `COMP.*` instructions, which differ in their colour rule only. -/

namespace Sys2Proof.Machine

open Sys2Proof

/-- What the colour rule of one pixel sees (R141): the two pixels, `op` and `HA`. -/
structure CompIn where
  src : Pixel
  dst : Pixel
  op : Nat
  ha : Bool
deriving DecidableEq, Repr

/-- `as`, the source's effective alpha (R142). -/
def CompIn.srcAlpha (x : CompIn) : Nat := mul x.src.a x.op

/-- `ab`, the backdrop's alpha (R142): opaque when `HA` is 0 (R143). -/
def CompIn.backAlpha (x : CompIn) : Nat := if x.ha then x.dst.a else Config.one

/-- `k = 32768 − as` (R142). -/
def CompIn.keep (x : CompIn) : Nat := Config.one - x.srcAlpha

/-- `cs`, the un-premultiplied source colour (R145). -/
def CompIn.srcColour (x : CompIn) : Rgb :=
  ⟨unpremul x.src.r x.src.a, unpremul x.src.g x.src.a, unpremul x.src.b x.src.a⟩

/-- `cb`, the un-premultiplied backdrop colour; with `HA` = 0 the destination's own (R145). -/
def CompIn.backColour (x : CompIn) : Rgb :=
  if x.ha then ⟨unpremul x.dst.r x.dst.a, unpremul x.dst.g x.dst.a, unpremul x.dst.b x.dst.a⟩
  else x.dst.rgb

/-- The result alpha, source-over (R142). -/
def CompIn.outAlpha (x : CompIn) : Nat := x.srcAlpha + mul x.keep x.backAlpha

/-- The colour rule of mode 0 (R150). -/
def normalColour (x : CompIn) : Rgb :=
  ⟨mul x.src.r x.op + mul x.keep x.dst.r,
   mul x.src.g x.op + mul x.keep x.dst.g,
   mul x.src.b x.op + mul x.keep x.dst.b⟩

/-- One channel of the colour rule of modes 1 to 15 (R146). -/
def CompIn.channel (x : CompIn) (sc dc bc : Nat) : Nat :=
  mul (mul sc x.op) (Config.one - x.backAlpha) + mul (mul x.srcAlpha x.backAlpha) bc + mul x.keep dc

/-- The colour rule of modes 1 to 15 with the blend function `B` (R146). -/
def blendColour (B : Rgb → Rgb → Rgb) (x : CompIn) : Rgb :=
  let o := B x.backColour x.srcColour
  ⟨x.channel x.src.r x.dst.r o.r, x.channel x.src.g x.dst.g o.g, x.channel x.src.b x.dst.b o.b⟩

/-- The destination's check level (R148, R310). -/
def compLevel (ha : Bool) : Level := if ha then .premul else .range3

/-- The checks of one pixel: the source first, then the destination (R148, R311). -/
def compCheck (ha : Bool) (i : Nat) (src dst : Pixel) : Option FaultRec :=
  (src.check .premul .b i).or (dst.check (compLevel ha) .a i)

/-- Store the result of one pixel: the alpha cell only with `HA` = 1 (R142, R143). -/
def compStore (ha : Bool) (sa : Slot) (i : Nat) (c : Rgb) (alpha : Nat) (m : Memory) : Memory :=
  if ha then m.setPixel16 sa i ⟨c.r, c.g, c.b, alpha⟩ else m.setColour16 sa i c

/-- The body of the loop of R142 at pixel `i`. -/
def compPixel (colour : CompIn → Rgb) (op : Nat) (ha : Bool) (sa sb : Slot) (i : Nat)
    (m : Memory) : Except FaultRec Memory :=
  let x : CompIn := ⟨m.pixel16 sb i, m.pixel16 sa i, op, ha⟩
  checked (compCheck ha i x.src x.dst) (compStore ha sa i (colour x) x.outAlpha m)

/-- The common procedure of every `COMP.<MODE>` (R142), with the no-op of opacity zero (R144). -/
def composite (colour : CompIn → Rgb) (ha : Bool) (sa sb : Slot) (s : State) : State :=
  s.command [(.t16, sa), (.t16, sb)] fun s =>
    if s.opacity.toNat = 0 then (s, none)
    else s.overMem (scanTile (compPixel colour s.opacity.toNat ha sa sb))

/-- `COMP.NORMAL` (R150). -/
def execCompNormal (ha : Bool) (sa sb : Slot) (s : State) : Host.Outcome State Fault Refusal :=
  .next (composite normalColour ha sa sb s)

/-- `COMP.MULTIPLY` (R151). -/
def execCompMultiply (ha : Bool) (sa sb : Slot) (s : State) : Host.Outcome State Fault Refusal :=
  .next (composite (blendColour (separable blendMultiply)) ha sa sb s)

/-- `COMP.SCREEN` (R152). -/
def execCompScreen (ha : Bool) (sa sb : Slot) (s : State) : Host.Outcome State Fault Refusal :=
  .next (composite (blendColour (separable blendScreen)) ha sa sb s)

/-- `COMP.DARKEN` (R153). -/
def execCompDarken (ha : Bool) (sa sb : Slot) (s : State) : Host.Outcome State Fault Refusal :=
  .next (composite (blendColour (separable blendDarken)) ha sa sb s)

/-- `COMP.LIGHTEN` (R154). -/
def execCompLighten (ha : Bool) (sa sb : Slot) (s : State) : Host.Outcome State Fault Refusal :=
  .next (composite (blendColour (separable blendLighten)) ha sa sb s)

/-- `COMP.OVERLAY` (R155). -/
def execCompOverlay (ha : Bool) (sa sb : Slot) (s : State) : Host.Outcome State Fault Refusal :=
  .next (composite (blendColour (separable blendOverlay)) ha sa sb s)

/-- `COMP.HARDLIGHT` (R156). -/
def execCompHardlight (ha : Bool) (sa sb : Slot) (s : State) : Host.Outcome State Fault Refusal :=
  .next (composite (blendColour (separable blendHardlight)) ha sa sb s)

/-- `COMP.SOFTLIGHT` (R157). -/
def execCompSoftlight (ha : Bool) (sa sb : Slot) (s : State) : Host.Outcome State Fault Refusal :=
  .next (composite (blendColour (separable blendSoftlight)) ha sa sb s)

/-- `COMP.COLORDODGE` (R158). -/
def execCompColordodge (ha : Bool) (sa sb : Slot) (s : State) : Host.Outcome State Fault Refusal :=
  .next (composite (blendColour (separable blendColordodge)) ha sa sb s)

/-- `COMP.COLORBURN` (R159). -/
def execCompColorburn (ha : Bool) (sa sb : Slot) (s : State) : Host.Outcome State Fault Refusal :=
  .next (composite (blendColour (separable blendColorburn)) ha sa sb s)

/-- `COMP.DIFFERENCE` (R160). -/
def execCompDifference (ha : Bool) (sa sb : Slot) (s : State) : Host.Outcome State Fault Refusal :=
  .next (composite (blendColour (separable blendDifference)) ha sa sb s)

/-- `COMP.EXCLUSION` (R161). -/
def execCompExclusion (ha : Bool) (sa sb : Slot) (s : State) : Host.Outcome State Fault Refusal :=
  .next (composite (blendColour (separable blendExclusion)) ha sa sb s)

/-- `COMP.HUE` (R162). -/
def execCompHue (ha : Bool) (sa sb : Slot) (s : State) : Host.Outcome State Fault Refusal :=
  .next (composite (blendColour blendHue) ha sa sb s)

/-- `COMP.SATURATION` (R163). -/
def execCompSaturation (ha : Bool) (sa sb : Slot) (s : State) : Host.Outcome State Fault Refusal :=
  .next (composite (blendColour blendSaturation) ha sa sb s)

/-- `COMP.COLOR` (R164). -/
def execCompColor (ha : Bool) (sa sb : Slot) (s : State) : Host.Outcome State Fault Refusal :=
  .next (composite (blendColour blendColor) ha sa sb s)

/-- `COMP.LUMINOSITY` (R165). -/
def execCompLuminosity (ha : Bool) (sa sb : Slot) (s : State) : Host.Outcome State Fault Refusal :=
  .next (composite (blendColour blendLuminosity) ha sa sb s)

end Sys2Proof.Machine
end

