-- ==== Sys2Proof/Machine/Convert.lean ====
section
/-! DEFINITION. The bit-depth converters with dithering, the copies and clears, and `NOP`
(44_convert.md). -/

namespace Sys2Proof.Machine

open Sys2Proof

/-! ### 16 to 8 bits -/

/-- The un-premultiplied channel of `CV16TO8`, rounded to nearest (R233). -/
def unpremulRound (c a : Nat) : Nat := if a = 0 then 0 else (c * 2 ^ 15 + a / 2) / a

/-- Dithered truncation `(v·255 + noise) >> 15` (40_fixed_point.md R128, R233, R234). -/
def dither (v n : Nat) : Nat := (v * 255 + n) / 2 ^ 15

/-- The result of `CV16TO8` on one pixel with colour sample `nc` and alpha sample `na` (R233). -/
def toStorage (p : Pixel) (nc na : Nat) : Pixel :=
  ⟨dither (unpremulRound p.r p.a) nc, dither (unpremulRound p.g p.a) nc,
   dither (unpremulRound p.b p.a) nc, dither p.a na⟩

/-- The result of `CV16TO8X` on one pixel with sample `n` (R234). -/
def toDisplay (c : Rgb) (n : Nat) : Pixel := ⟨dither c.r n, dither c.g n, dither c.b n, 255⟩

/-- Pixel `i` of `CV16TO8`: two draws per pixel, colour then alpha, so `NOISE[2i]` and
`NOISE[2i + 1]` (R232). -/
def cv16to8Pixel (noise : List Half) (sa sb : Slot) (i : Nat) (m : Memory) :
    Except FaultRec Memory :=
  checked ((m.pixel16 sb i).check .premul .b i)
    (m.setPixel8 sa i (toStorage (m.pixel16 sb i) (noiseAt noise (2 * i)) (noiseAt noise (2 * i + 1))))

/-- `CV16TO8` (R233). -/
def execCv16to8 (sa sb : Slot) (s : State) : Host.Outcome State Fault Refusal :=
  .next (s.command [(.t8, sa), (.t16, sb)] fun s =>
    s.overMem (scanTile (cv16to8Pixel s.noise sa sb)))

/-- Pixel `i` of `CV16TO8X`: one draw per pixel, so `NOISE[i]` (R232); the alpha cell is not
checked (R234). -/
def cv16to8xPixel (noise : List Half) (sa sb : Slot) (i : Nat) (m : Memory) :
    Except FaultRec Memory :=
  checked ((m.pixel16 sb i).check .range3 .b i)
    (m.setPixel8 sa i (toDisplay (m.pixel16 sb i).rgb (noiseAt noise i)))

/-- `CV16TO8X` (R234). -/
def execCv16to8x (sa sb : Slot) (s : State) : Host.Outcome State Fault Refusal :=
  .next (s.command [(.t8, sa), (.t16, sb)] fun s =>
    s.overMem (scanTile (cv16to8xPixel s.noise sa sb)))

/-! ### 8 to 16 bits -/

/-- `s(v) = (v · 32768 + 127) / 255` (R235). -/
def scaleUp (v : Nat) : Nat := (v * 32768 + 127) / 255

/-- The premultiplying product, rounded half up (R235). -/
def premulRound (c a : Nat) : Nat := (c * a + 16384) / 2 ^ 15

/-- The result of `CV8TO16` on one storage pixel (R235). -/
def toWorking (p : Pixel) : Pixel :=
  let a := scaleUp p.a
  ⟨premulRound (scaleUp p.r) a, premulRound (scaleUp p.g) a, premulRound (scaleUp p.b) a, a⟩

/-- Pixel `i` of `CV8TO16`. -/
def cv8to16Pixel (sa sb : Slot) (i : Nat) (m : Memory) : Except FaultRec Memory :=
  .ok (m.setPixel16 sa i (toWorking (m.pixel8 sb i)))

/-- `CV8TO16` (R235). -/
def execCv8to16 (sa sb : Slot) (s : State) : Host.Outcome State Fault Refusal :=
  .next (s.command [(.t16, sa), (.t8, sb)] fun s => s.overMem (scanTile (cv8to16Pixel sa sb)))

/-! ### Copy and clear -/

/-- `TCPY16` (R236): the cells are moved as they are, without a check. -/
def execTcpy16 (sa sb : Slot) (s : State) : Host.Outcome State Fault Refusal :=
  .next (s.command [(.t16, sa), (.t16, sb)] fun s =>
    s.overMem (scanTile fun i m => .ok (m.setPixel16 sa i (m.pixel16 sb i))))

/-- `TCLR16` (R237). -/
def execTclr16 (sa : Slot) (s : State) : Host.Outcome State Fault Refusal :=
  .next (s.command [(.t16, sa)] fun s =>
    s.overMem (scanTile fun i m => .ok (m.setPixel16 sa i ⟨0, 0, 0, 0⟩)))

/-- `TCPY8` (R239). -/
def execTcpy8 (sa sb : Slot) (s : State) : Host.Outcome State Fault Refusal :=
  .next (s.command [(.t8, sa), (.t8, sb)] fun s =>
    s.overMem (scanTile fun i m => .ok (m.setPixel8 sa i (m.pixel8 sb i))))

/-- `TCLR8` (R240). -/
def execTclr8 (sa : Slot) (s : State) : Host.Outcome State Fault Refusal :=
  .next (s.command [(.t8, sa)] fun s =>
    s.overMem (scanTile fun i m => .ok (m.setPixel8 sa i ⟨0, 0, 0, 0⟩)))

/-- `NOP` (R241): it completes, and does nothing else. -/
def execNop (s : State) : Host.Outcome State Fault Refusal :=
  .next (s.command [] fun s => (s, none))

end Sys2Proof.Machine
end

