-- ==== Sys2Proof/Machine/Dab.lean ====
section
/-! DEFINITION. The brush dab renderer (43_dab.md): `DABN`, `DABE`, `DABL`, `DABACC`. -/

namespace Sys2Proof.Machine

open Sys2Proof

/-- What the paint rule of one visited pixel sees (R204): the destination pixel, `opa_a`, `opa_b`
and the flat colour. -/
structure DabIn where
  dst : Pixel
  opaA : Nat
  opaB : Nat
  col : Rgb
deriving DecidableEq, Repr

/-- `opa_a = mul(v, op)`, `opa_b = 32768 − opa_a` (R204). -/
def dabIn (dst : Pixel) (v op : Nat) (col : Rgb) : DabIn :=
  ⟨dst, mul v op, Config.one - mul v op, col⟩

/-- The colour of all three paint rules with the paint's share `oa`: one sum of two products,
shifted once (R210, R211, R212). -/
def DabIn.colour (x : DabIn) (oa : Nat) : Rgb :=
  ⟨(oa * x.col.r + x.opaB * x.dst.r) / 2 ^ 15,
   (oa * x.col.g + x.opaB * x.dst.g) / 2 ^ 15,
   (oa * x.col.b + x.opaB * x.dst.b) / 2 ^ 15⟩

/-- The result alpha of `DABN` and `DABE` with the paint's share `oa` (R210, R211). -/
def DabIn.alpha (x : DabIn) (oa : Nat) : Nat := oa + mul x.opaB x.dst.a

/-- The pixel with the colour and alpha of the paint's share `oa`. -/
def DabIn.paint (x : DabIn) (oa : Nat) : Pixel :=
  let c := x.colour oa
  ⟨c.r, c.g, c.b, x.alpha oa⟩

/-- `COLOR_R`, `COLOR_G`, `COLOR_B` as the flat colour (R201). -/
def State.flatColour (s : State) : Rgb := ⟨s.colorR.toNat, s.colorG.toNat, s.colorB.toNat⟩

/-- The action of a paint command on pixel `p` with intensity `v`: read the pixel whole, check it
at level `PREMUL`, then `store` (R204). -/
def paintPixel (store : DabIn → Memory → Memory) (op : Nat) (col : Rgb) (sa : Slot) (p v : Nat)
    (m : Memory) : Except FaultRec Memory :=
  checked ((m.pixel16 sa p).check .premul .a p) (store (dabIn (m.pixel16 sa p) v op col) m)

/-- A paint command: `store p` writes the result of pixel `p`. -/
def paint (store : Nat → DabIn → Memory → Memory) (sa : Slot) (s : State) : State :=
  s.command [(.t16, sa)] fun s =>
    s.overMem fun m =>
      walkMask m (fun p => paintPixel (store p) s.opacity.toNat s.flatColour sa p) m

/-- `DABN`, normal paint (R210). -/
def execDabn (sa : Slot) (s : State) : Host.Outcome State Fault Refusal :=
  .next (paint (fun p x m => m.setPixel16 sa p (x.paint x.opaA)) sa s)

/-- `DABE`, normal-and-eraser (R211): the paint's share is `mul(opa_a, COLOR_A)`. -/
def execDabe (sa : Slot) (s : State) : Host.Outcome State Fault Refusal :=
  .next (paint (fun p x m => m.setPixel16 sa p (x.paint (mul x.opaA s.colorA.toNat))) sa s)

/-- `DABL`, lock-alpha paint (R212): the paint's share is `mul(opa_a, D_A)`; the alpha cell is not
written. -/
def execDabl (sa : Slot) (s : State) : Host.Outcome State Fault Refusal :=
  .next (paint (fun p x m => m.setColour16 sa p (x.colour (mul x.opaA x.dst.a))) sa s)

/-- The five command-local sums of `DABACC` (R213). -/
structure Sums where
  w : Nat
  r : Nat
  g : Nat
  b : Nat
  a : Nat
deriving DecidableEq, Repr

/-- The sums with one visited pixel added (R213). -/
def Sums.add (x : Sums) (v : Nat) (d : Pixel) : Sums :=
  ⟨x.w + v, x.r + mul v d.r, x.g + mul v d.g, x.b + mul v d.b, x.a + mul v d.a⟩

/-- The action of `DABACC` on pixel `p` with intensity `v`: check level `RANGE4` (R213). -/
def sumPixel (m : Memory) (sa : Slot) (p v : Nat) (x : Sums) : Except FaultRec Sums :=
  checked ((m.pixel16 sa p).check .range4 .a p) (x.add v (m.pixel16 sa p))

/-- The commit of R214: each sum is added to its accumulator modulo 2^64. -/
def State.commit (s : State) (x : Sums) : State :=
  { s with
    accW := s.accW + BitVec.ofNat 64 x.w
    accR := s.accR + BitVec.ofNat 64 x.r
    accG := s.accG + BitVec.ofNat 64 x.g
    accB := s.accB + BitVec.ofNat 64 x.b
    accA := s.accA + BitVec.ofNat 64 x.a }

/-- The data phase of `DABACC`: commit when, and only when, the traversal completes (R214). -/
def accumulate (sa : Slot) (s : State) : State × Option FaultRec :=
  match walkMask s.mem (sumPixel s.mem sa) ⟨0, 0, 0, 0, 0⟩ with
  | (x, none) => (s.commit x, none)
  | (_, some f) => (s, some f)

/-- `DABACC`, accumulate for colour pick (R213, R214). -/
def execDabacc (sa : Slot) (s : State) : Host.Outcome State Fault Refusal :=
  .next (s.command [(.t16, sa)] (accumulate sa))

end Sys2Proof.Machine
end

