-- ==== Sys2Proof/Machine/Downscale.lean ====
section
/-! DEFINITION. The mipmap downscaler (46_downscale.md). -/

namespace Sys2Proof.Machine

open Sys2Proof

/-- The pre-checks of `DOWNS`, in the order of R271: `ALIAS`, then `BAD_PARAM` on `DST_X`, then on
`DST_Y`. -/
def downsPre (sa sb : Slot) (s : State) : Option FaultRec :=
  if sa = sb then some ⟨.slotAlias, 0, 0, 0⟩
  else if s.dstX.toNat > Config.half then some ⟨.badParam, 0, 0, 0⟩
  else if s.dstY.toNat > Config.half then some ⟨.badParam, 1, 0, 0⟩
  else none

/-- The index of source pixel `(2x + dx, 2y + dy)` (R271). -/
def downsSource (x y dx dy : Nat) : Nat := (2 * y + dy) * Config.tileN + (2 * x + dx)

/-- The index of the target pixel of window position `(x, y)` (R271). -/
def downsTarget (dstX dstY x y : Nat) : Nat := (dstY + y) * Config.tileN + dstX + x

/-- The four samples added first, the sum shifted once (R271). -/
def average (p q r t : Nat) : Nat := (p + q + r + t) / 4

/-- The average of four pixels, alpha like the colours (R271). -/
def averagePixel (p q r t : Pixel) : Pixel :=
  ⟨average p.r q.r r.r t.r, average p.g q.g r.g t.g, average p.b q.b r.b t.b, average p.a q.a r.a t.a⟩

/-- Window position `(x, y)` of `DOWNS`: the samples in the order (0,0), (1,0), (0,1), (1,1), each
checked as it is read (R271, R311). -/
def downsBlock (dstX dstY : Nat) (sa sb : Slot) (x y : Nat) (m : Memory) : Except FaultRec Memory :=
  let sample := fun dx dy => m.pixel16 sb (downsSource x y dx dy)
  let check := fun dx dy => (sample dx dy).check .range4 .b (downsSource x y dx dy)
  checked (((check 0 0).or (check 1 0)).or ((check 0 1).or (check 1 1)))
    (m.setPixel16 sa (downsTarget dstX dstY x y)
      (averagePixel (sample 0 0) (sample 1 0) (sample 0 1) (sample 1 1)))

/-- The data phase of `DOWNS`: rows ascending, and columns ascending within a row, so position `w`
of the scan is column `w mod H` of row `w / H`. -/
def downsWindow (dstX dstY : Nat) (sa sb : Slot) (m : Memory) : Memory × Option FaultRec :=
  scanFrom (fun w => downsBlock dstX dstY sa sb (w % Config.half) (w / Config.half))
    0 (Config.half * Config.half) m

/-- `DOWNS` (R271). -/
def execDowns (sa sb : Slot) (s : State) : Host.Outcome State Fault Refusal :=
  .next (s.command [(.t16, sa), (.t16, sb)] fun s =>
    match downsPre sa sb s with
    | some f => (s, some f)
    | none => s.overMem (downsWindow s.dstX.toNat s.dstY.toNat sa sb))

end Sys2Proof.Machine
end

