-- ==== Sys2Proof/Machine/Flatten.lean ====
section
/-! DEFINITION. The flatten / unflatten transform (45_flatten.md). -/

namespace Sys2Proof.Machine

open Sys2Proof

/-- The result colour of `FLAT` on pixel `d` over the background colour `g` (R261). -/
def flatColourOf (d : Pixel) (g : Rgb) : Rgb :=
  ⟨d.r + mul (Config.one - d.a) g.r,
   d.g + mul (Config.one - d.a) g.g,
   d.b + mul (Config.one - d.a) g.b⟩

/-- Pixel `i` of `FLAT`: the background is checked first (R311); the alpha cell is not written. -/
def flatPixel (sa sb : Slot) (i : Nat) (m : Memory) : Except FaultRec Memory :=
  checked (((m.pixel16 sb i).check .range3 .b i).or ((m.pixel16 sa i).check .premul .a i))
    (m.setColour16 sa i (flatColourOf (m.pixel16 sa i) (m.pixel16 sb i).rgb))

/-- `FLAT` (R261). -/
def execFlat (sa sb : Slot) (s : State) : Host.Outcome State Fault Refusal :=
  .next (s.command [(.t16, sa), (.t16, sb)] fun s => s.overMem (scanTile (flatPixel sa sb)))

/-- `q_c`, the least alpha that explains colour `d` over background `g`, rounded up, with the
explicit saturation (R262, R264). -/
def requiredAlpha (d g : Nat) : Nat :=
  let delta : Int := (d : Int) - (g : Int)
  let q :=
    if delta > 0 then cdiv (delta.toNat * 32768) (Config.one - g)
    else if delta < 0 then cdiv ((-delta).toNat * 32768) g
    else 0
  min Config.one q

/-- The back-solved colour, clamped to `[0, finalAlpha]` (R262). -/
def backSolve (d g fa : Nat) : Nat :=
  (clamp ((mul g fa : Int) + ((d : Int) - (g : Int))) 0 fa).toNat

/-- The result of `UNFLAT` on pixel `d` with the background colour `g` (R262). -/
def unflatten (d : Pixel) (g : Rgb) : Pixel :=
  let fa := max (max (max d.a (requiredAlpha d.r g.r)) (requiredAlpha d.g g.g)) (requiredAlpha d.b g.b)
  if fa = 0 then ⟨0, 0, 0, 0⟩
  else ⟨backSolve d.r g.r fa, backSolve d.g g.g fa, backSolve d.b g.b fa, fa⟩

/-- Pixel `i` of `UNFLAT`: the background is checked first (R311). -/
def unflatPixel (sa sb : Slot) (i : Nat) (m : Memory) : Except FaultRec Memory :=
  checked (((m.pixel16 sb i).check .range3 .b i).or ((m.pixel16 sa i).check .range4 .a i))
    (m.setPixel16 sa i (unflatten (m.pixel16 sa i) (m.pixel16 sb i).rgb))

/-- `UNFLAT` (R262). -/
def execUnflat (sa sb : Slot) (s : State) : Host.Outcome State Fault Refusal :=
  .next (s.command [(.t16, sa), (.t16, sb)] fun s => s.overMem (scanTile (unflatPixel sa sb)))

end Sys2Proof.Machine
end

