-- ==== Sys2Proof/Machine/Stroke.lean ====
section
/-! DEFINITION. The perceptual stroke-change detector (47_stroke.md). -/

namespace Sys2Proof.Machine

open Sys2Proof

/-- `|after.c·before.a − before.c·after.a|` (R281). -/
def crossDiff (bc ba ac aa : Nat) : Nat := ((ac * ba : Nat) - (bc * aa : Nat) : Int).natAbs

/-- `cc`, the colour change: three differences at full width, the sum shifted once (R281). -/
def colourChange (bf af : Pixel) : Nat :=
  (crossDiff bf.r bf.a af.r af.a + crossDiff bf.g bf.a af.g af.a + crossDiff bf.b bf.a af.b af.a) / 2 ^ 15

/-- `d`, the signed change of alpha (R281). -/
def alphaChange (bf af : Pixel) : Int := (af.a : Int) - (bf.a : Int)

/-- Condition (a) of R281. -/
def colourFlag (bf af : Pixel) : Bool :=
  decide (colourChange bf af > max bf.a af.a / Config.strkColorDiv)

/-- Condition (b) of R281. -/
def absFlag (bf af : Pixel) : Bool :=
  decide (alphaChange bf af > ((Config.one / Config.strkAbsDiv : Nat) : Int))

/-- Condition (c) of R281. -/
def relFlag (bf af : Pixel) : Bool :=
  decide (alphaChange bf af > ((Config.one / Config.strkRelMinDiv : Nat) : Int)) &&
    decide (alphaChange bf af > ((bf.a / Config.strkRelDiv : Nat) : Int))

/-- The cell `STRK` writes: 1 (flagged) or 0 (R281). -/
def strokeCell (bf af : Pixel) : Nat :=
  if colourFlag bf af || absFlag bf af || relFlag bf af then 1 else 0

/-- Pixel `i` of `STRK`: `before` is checked first (R281, R311). -/
def strkPixel (sa sb sc : Slot) (i : Nat) (m : Memory) : Except FaultRec Memory :=
  checked (((m.pixel16 sb i).check .range4 .b i).or ((m.pixel16 sc i).check .range4 .c i))
    (m.setSm sa i (strokeCell (m.pixel16 sb i) (m.pixel16 sc i)))

/-- `STRK` (R281). -/
def execStrk (sa sb sc : Slot) (s : State) : Host.Outcome State Fault Refusal :=
  .next (s.command [(.sm, sa), (.t16, sb), (.t16, sc)] fun s =>
    s.overMem (scanTile (strkPixel sa sb sc)))

end Sys2Proof.Machine
end

