-- ==== Sys2Proof/Machine/Dispatch.lean ====
section
/-! DEFINITION. The meaning of a decoded command: R94 steps 4 to 7 of 30_encoding.md, one arm per
instruction. The command word is already in `CMD` (step 2); the port's answer is given by the
port (Port.lean). -/

namespace Sys2Proof.Machine

open Sys2Proof

def exec (i : Instr) (s : State) : Host.Outcome State Fault Refusal :=
  match i with
  | .nop => Sys2Proof.Machine.execNop s
  | .compNormal ha sa sb => Sys2Proof.Machine.execCompNormal ha sa sb s
  | .compMultiply ha sa sb => Sys2Proof.Machine.execCompMultiply ha sa sb s
  | .compScreen ha sa sb => Sys2Proof.Machine.execCompScreen ha sa sb s
  | .compDarken ha sa sb => Sys2Proof.Machine.execCompDarken ha sa sb s
  | .compLighten ha sa sb => Sys2Proof.Machine.execCompLighten ha sa sb s
  | .compOverlay ha sa sb => Sys2Proof.Machine.execCompOverlay ha sa sb s
  | .compHardlight ha sa sb => Sys2Proof.Machine.execCompHardlight ha sa sb s
  | .compSoftlight ha sa sb => Sys2Proof.Machine.execCompSoftlight ha sa sb s
  | .compColordodge ha sa sb => Sys2Proof.Machine.execCompColordodge ha sa sb s
  | .compColorburn ha sa sb => Sys2Proof.Machine.execCompColorburn ha sa sb s
  | .compDifference ha sa sb => Sys2Proof.Machine.execCompDifference ha sa sb s
  | .compExclusion ha sa sb => Sys2Proof.Machine.execCompExclusion ha sa sb s
  | .compHue ha sa sb => Sys2Proof.Machine.execCompHue ha sa sb s
  | .compSaturation ha sa sb => Sys2Proof.Machine.execCompSaturation ha sa sb s
  | .compColor ha sa sb => Sys2Proof.Machine.execCompColor ha sa sb s
  | .compLuminosity ha sa sb => Sys2Proof.Machine.execCompLuminosity ha sa sb s
  | .dabn sa => Sys2Proof.Machine.execDabn sa s
  | .dabe sa => Sys2Proof.Machine.execDabe sa s
  | .dabl sa => Sys2Proof.Machine.execDabl sa s
  | .dabacc sa => Sys2Proof.Machine.execDabacc sa s
  | .cv16to8 sa sb => Sys2Proof.Machine.execCv16to8 sa sb s
  | .cv16to8x sa sb => Sys2Proof.Machine.execCv16to8x sa sb s
  | .cv8to16 sa sb => Sys2Proof.Machine.execCv8to16 sa sb s
  | .tcpy16 sa sb => Sys2Proof.Machine.execTcpy16 sa sb s
  | .tclr16 sa => Sys2Proof.Machine.execTclr16 sa s
  | .tcpy8 sa sb => Sys2Proof.Machine.execTcpy8 sa sb s
  | .tclr8 sa => Sys2Proof.Machine.execTclr8 sa s
  | .flat sa sb => Sys2Proof.Machine.execFlat sa sb s
  | .unflat sa sb => Sys2Proof.Machine.execUnflat sa sb s
  | .downs sa sb => Sys2Proof.Machine.execDowns sa sb s
  | .strk sa sb sc => Sys2Proof.Machine.execStrk sa sb sc s

end Sys2Proof.Machine
end

