-- ==== Sys2Proof/Machine/Port.lean ====
section
/-! DEFINITION. The host port (20_memory.md): the register file (10_state.md R21 to R34), legality
(R64), the transactions `HRD` and `HWR` (R83), the `CMD` write (30_encoding.md R94) and the reset
event (70_reset_and_hazards.md R340 to R346). -/

namespace Sys2Proof.Machine

open Sys2Proof

/-! ### Registers -/

/-- The five accumulators (10_state.md R34). -/
inductive Acc where
  | w
  | r
  | g
  | b
  | a
deriving DecidableEq, Repr

/-- The registers of R21; an accumulator is seen as two words. -/
inductive Reg where
  | id
  | cfg
  | status
  | irqEn
  | cmd
  | errCode
  | errInfo
  | opacity
  | colorR
  | colorG
  | colorB
  | colorA
  | dstX
  | dstY
  | accLo (k : Acc)
  | accHi (k : Acc)
deriving DecidableEq, Repr

/-- The register at a byte offset (R21); the offsets 0x01C, 0x03C and from 0x068 on hold none, and
neither does an offset that is no multiple of 4 (R64). -/
def Reg.ofAddr (a : Nat) : Option Reg :=
  match a with
  | 0x000 => some .id
  | 0x004 => some .cfg
  | 0x008 => some .status
  | 0x00C => some .irqEn
  | 0x010 => some .cmd
  | 0x014 => some .errCode
  | 0x018 => some .errInfo
  | 0x020 => some .opacity
  | 0x024 => some .colorR
  | 0x028 => some .colorG
  | 0x02C => some .colorB
  | 0x030 => some .colorA
  | 0x034 => some .dstX
  | 0x038 => some .dstY
  | 0x040 => some (.accLo .w)
  | 0x044 => some (.accHi .w)
  | 0x048 => some (.accLo .r)
  | 0x04C => some (.accHi .r)
  | 0x050 => some (.accLo .g)
  | 0x054 => some (.accHi .g)
  | 0x058 => some (.accLo .b)
  | 0x05C => some (.accHi .b)
  | 0x060 => some (.accLo .a)
  | 0x064 => some (.accHi .a)
  | _ => none

/-- An accumulator's value. -/
def State.acc (s : State) : Acc → BitVec 64
  | .w => s.accW
  | .r => s.accR
  | .g => s.accG
  | .b => s.accB
  | .a => s.accA

/-- The state with another value in one accumulator. -/
def State.setAcc (s : State) (k : Acc) (v : BitVec 64) : State :=
  match k with
  | .w => { s with accW := v }
  | .r => { s with accR := v }
  | .g => { s with accG := v }
  | .b => { s with accB := v }
  | .a => { s with accA := v }

/-- `register_read` (R83): bits not named read 0 (R21), so each register is zero-extended. -/
def State.readReg (s : State) : Reg → Word
  | .id => Config.idValue
  | .cfg => Config.cfgValue
  | .status => s.status.setWidth 32
  | .irqEn => s.irqEn.setWidth 32
  | .cmd => s.cmd
  | .errCode => s.errCode.setWidth 32
  | .errInfo => s.errInfo.setWidth 32
  | .opacity => s.opacity.setWidth 32
  | .colorR => s.colorR.setWidth 32
  | .colorG => s.colorG.setWidth 32
  | .colorB => s.colorB.setWidth 32
  | .colorA => s.colorA.setWidth 32
  | .dstX => s.dstX.setWidth 32
  | .dstY => s.dstY.setWidth 32
  | .accLo k => (s.acc k).extractLsb' 0 32
  | .accHi k => (s.acc k).extractLsb' 32 32

/-- Legalisation of the RW-L registers (10_state.md R33). -/
def legalise (v : Word) : Half := BitVec.ofNat 16 (min v.toNat Config.one)

/-! ### The `CMD` write -/

/-- The fault of a word that matches no row (R94 step 3, R302). -/
def illegalFault : FaultRec := ⟨.illegalCmd, 0, 0, 0⟩

/-- A host write of `w` to `CMD`: R94, steps 1 to 3; `exec` is steps 4 to 7. While `ERR` is 1 the
write changes nothing, `CMD` included (R95). -/
def State.writeCmd (s : State) (w : Word) : Host.Outcome State Fault Refusal :=
  if s.err then .next s
  else
    match decode w with
    | .error _ => .next (State.raise { s with cmd := w } illegalFault)
    | .ok i => exec i { s with cmd := w }

/-- `register_write` (R83). Writes to the read-only registers are ignored (R65). -/
def State.writeReg (s : State) (v : Word) : Reg → Host.Outcome State Fault Refusal
  | .id => .next s
  | .cfg => .next s
  | .status => .next (s.writeStatus v)
  | .irqEn => .next { s with irqEn := v.extractLsb' 0 2 }
  | .cmd => s.writeCmd v
  | .errCode => .next s
  | .errInfo => .next s
  | .opacity => .next { s with opacity := legalise v }
  | .colorR => .next { s with colorR := legalise v }
  | .colorG => .next { s with colorG := legalise v }
  | .colorB => .next { s with colorB := legalise v }
  | .colorA => .next { s with colorA := legalise v }
  | .dstX => .next { s with dstX := v.extractLsb' 0 16 }
  | .dstY => .next { s with dstY := v.extractLsb' 0 16 }
  | .accLo k => .next (s.setAcc k ((s.acc k).extractLsb' 32 32 ++ v))
  | .accHi k => .next (s.setAcc k (v ++ (s.acc k).extractLsb' 0 32))

/-! ### Regions -/

/-- Offset `a` lies in the `n` bytes from `base` on. -/
def inRange (base n a : Nat) : Bool := decide (base ≤ a) && decide (a < base + n)

/-- Offset `a` lies in `NOISE` (R62, R63). -/
def inNoise (a : Nat) : Bool := inRange Config.noiseBase (2 * Config.noiseLen) a

/-- Offset `a` lies in a memory the host can write: `MASK`, `SM`, `T8`, `T16` (R62, R63). -/
def inWritable (a : Nat) : Bool :=
  inRange Config.maskBase (2 * Config.maskWords) a
    || inRange Config.smBase (Config.nsm * Config.npix) a
    || inRange Config.t8Base (Config.nslot8 * (4 * Config.npix)) a
    || inRange Config.t16Base (Config.nslot16 * (8 * Config.npix)) a

/-- A read of `n` bytes at `a` in a memory region is legal (R64). -/
def legalRead (a : Nat) (n : Size) : Bool := (inWritable a || inNoise a) && decide (a % n.bytes = 0)

/-- A write of `n` bytes at `a` in a memory region is legal: `NOISE` accepts reads only (R64). -/
def legalWrite (a : Nat) (n : Size) : Bool := inWritable a && decide (a % n.bytes = 0)

/-- The byte at offset `a` as a number: a byte of the noise ROM, little-endian (R66, R74), or of the
writable memories. -/
def State.byteAt (s : State) (a : Nat) : Nat :=
  if inNoise a then
    noiseAt s.noise ((a - Config.noiseBase) / 2) / 256 ^ ((a - Config.noiseBase) % 2) % 256
  else s.mem.read8 a

/-- `MemRead(addr, n)` (R66). -/
def State.memRead (s : State) (a : Nat) : Nat → Nat
  | 0 => 0
  | n + 1 => s.byteAt a + 256 * s.memRead (a + 1) n

/-! ### Transactions -/

/-- The state with the port's answer. -/
def State.answered (s : State) (x : Answer) : State := { s with answer := x }

/-- What `HRD addr, n` answers (R83): no read has a side effect (R68). -/
def State.hostRead (s : State) (a : Nat) (n : Size) : Answer :=
  match Reg.ofAddr a with
  | some r => if n = .b4 then .data (s.readReg r) else .error
  | none => if legalRead a n then .data (BitVec.ofNat 32 (s.memRead a n.bytes)) else .error

/-- `HWR addr, n, v` (R83). The `CMD` write is answered `OK` even when the command faults or is
discarded (R95, R306), so the answer stands before the register is written. -/
def State.hostWrite (s : State) (a : Nat) (n : Size) (v : Word) : Host.Outcome State Fault Refusal :=
  match Reg.ofAddr a with
  | some r => if n = .b4 then (s.answered .ok).writeReg v r else .next (s.answered .error)
  | none =>
    if legalWrite a n then
      .next ((s.answered .ok).withMem (s.mem.writeBytes a n.bytes v.toNat))
    else .next (s.answered .error)

/-- The canonical memory with these contents: cells outside the writable memories are dropped. -/
def Memory.ofCells : List Host.Cell → Memory
  | [] => []
  | c :: rest =>
    if inWritable c.1 then (Memory.ofCells rest).write c.1 c.2 else Memory.ofCells rest

/-- Serve one event of the host. A reset event loses everything but `NOISE` (R346) and leaves the
writable memories holding any contents (R342), those the event carries. -/
def State.serve (s : State) : HostEvent → Host.Outcome State Fault Refusal
  | .read a n => .next (s.answered (s.hostRead a.toNat n))
  | .write a n v => s.hostWrite a.toNat n v
  | .rst contents => .next (State.afterReset s.noise (Memory.ofCells contents) s.inbox)

end Sys2Proof.Machine
end

