-- ==== Sys2Proof/Machine/Step.lean ====
section
/-! DEFINITION. One step: the next event of the host is served whole (20_memory.md R61). -/

namespace Sys2Proof.Machine

open Sys2Proof

/-- The state without its first waiting event. -/
def State.pop (s : State) : State := { s with inbox := s.inbox.tail }

/-- One step. With no event waiting nothing changes: no event outside the host port and `rst` can
change the state (60_exceptions.md R321; log 3). -/
def step (s : State) : Host.Outcome State Fault Refusal :=
  match s.inbox with
  | [] => .next s
  | e :: _ => s.pop.serve e

/-- The byte offset of `CMD` (10_state.md R27). -/
def cmdAddr : Addr := 0x00010#20

/-- PIXDP fetches nothing (10_state.md R26): a command word arrives as the data of a host write to
`CMD`, so the word is put there as the next transaction (log 10). -/
def State.withFetchWord (s : State) (nbits w : Nat) : State :=
  { s with inbox := .write cmdAddr .b4 (BitVec.ofNat 32 (w % 2 ^ nbits)) :: s.inbox }

end Sys2Proof.Machine
end

