-- ==== Sys2Proof/Machine/Assembler.lean ====
section
/-! DEFINITION. The assembler statements and pseudo-instructions of 30_encoding.md R110 and R111, as
the host transactions they stand for, and the textual form of a command (log 20). -/

namespace Sys2Proof.Machine

open Sys2Proof

/-- The byte offset of an accumulator's low word (10_state.md R21). -/
def Acc.offset : Acc → Nat
  | .w => 0x040
  | .r => 0x048
  | .g => 0x050
  | .b => 0x058
  | .a => 0x060

/-- `offset(reg)` (R110), from the table of 10_state.md R21. -/
def Reg.offset : Reg → Nat
  | .id => 0x000
  | .cfg => 0x004
  | .status => 0x008
  | .irqEn => 0x00C
  | .cmd => 0x010
  | .errCode => 0x014
  | .errInfo => 0x018
  | .opacity => 0x020
  | .colorR => 0x024
  | .colorG => 0x028
  | .colorB => 0x02C
  | .colorA => 0x030
  | .dstX => 0x034
  | .dstY => 0x038
  | .accLo k => k.offset
  | .accHi k => k.offset + 4

/-- A statement (R110) or pseudo-instruction (R111). -/
inductive Stmt where
  /-- `WR reg, v`. -/
  | wr (r : Reg) (v : Word)
  /-- `RD reg`. -/
  | rd (r : Reg)
  /-- `WM addr, n, v`. -/
  | wm (addr : Addr) (n : Size) (v : Word)
  /-- `RM addr, n`. -/
  | rm (addr : Addr) (n : Size)
  /-- A command, by its mnemonic. -/
  | cmd (i : Instr)
  /-- `SETCOLOR r, g, b`. -/
  | setcolor (r g b : Word)
  /-- `SETCOLORA r, g, b, a`. -/
  | setcolora (r g b a : Word)
  /-- `ERASE Td`. -/
  | erase (d : Slot)
  /-- `ACCCLR`. -/
  | accclr
  /-- `CLRERR`. -/
  | clrerr
  /-- `CLRDONE`. -/
  | clrdone
  /-- `MASKW m, v`. -/
  | maskw (m : Nat) (v : Half)
  /-- `PIX16 Ts, i, r, g, b, a`. -/
  | pix16 (s : Slot) (i : Nat) (r g b a : Half)
  /-- `PIX8 Bs, i, r, g, b, a`. -/
  | pix8 (s : Slot) (i : Nat) (r g b a : Byte)
  /-- `DOWNSQ Td, Ts, qx, qy`. -/
  | downsq (d s : Slot) (qx qy : Bool)
deriving DecidableEq, Repr

/-- `WR reg, v` as a transaction (R110). -/
def wrEvent (r : Reg) (v : Word) : HostEvent := .write (BitVec.ofNat 20 r.offset) .b4 v

/-- A write to a memory region (R110). -/
def wmEvent (a : Nat) (n : Size) (v : Word) : HostEvent := .write (BitVec.ofNat 20 a) n v

/-- A command as a transaction: `WR CMD, word` (R110). -/
def cmdEvent (i : Instr) : HostEvent := wrEvent .cmd (encode i)

/-- The two writes that clear one accumulator (R111). -/
def clearAcc (k : Acc) : List HostEvent := [wrEvent (.accLo k) 0, wrEvent (.accHi k) 0]

/-- The colour writes of `SETCOLOR` (R111). -/
def colourEvents (r g b : Word) : List HostEvent :=
  [wrEvent .colorR r, wrEvent .colorG g, wrEvent .colorB b]

/-- The quadrant offset `q·H` of `DOWNSQ` (R111). -/
def quadrant (q : Bool) : Word := if q then BitVec.ofNat 32 Config.half else 0

/-- The transactions a statement stands for (R110, R111). -/
def Stmt.expand : Stmt → List HostEvent
  | .wr r v => [wrEvent r v]
  | .rd r => [.read (BitVec.ofNat 20 r.offset) .b4]
  | .wm a n v => [.write a n v]
  | .rm a n => [.read a n]
  | .cmd i => [cmdEvent i]
  | .setcolor r g b => colourEvents r g b
  | .setcolora r g b a => colourEvents r g b ++ [wrEvent .colorA a]
  | .erase d => [wrEvent .colorA 0, cmdEvent (.dabe d)]
  | .accclr => [Acc.w, .r, .g, .b, .a].flatMap clearAcc
  | .clrerr => [wrEvent .status 2]
  | .clrdone => [wrEvent .status 1]
  | .maskw m v => [wmEvent (maskAddr m) .b2 (v.setWidth 32)]
  | .pix16 s i r g b a => [wmEvent (t16Addr s i 0) .b4 (g ++ r), wmEvent (t16Addr s i 2) .b4 (a ++ b)]
  | .pix8 s i r g b a => [wmEvent (t8Addr s i 0) .b4 (a ++ b ++ g ++ r)]
  | .downsq d s qx qy => [wrEvent .dstX (quadrant qx), wrEvent .dstY (quadrant qy), cmdEvent (.downs d s)]

/-- A program is a sequence of host transactions (R110). -/
def assemble (program : List Stmt) : List HostEvent := program.flatMap Stmt.expand

/-! ### Textual form -/

/-- A slot operand: `T` for `T16`, `B` for `T8`, `S` for `SM`, then its number (R110). -/
def slotText (f : MemKind × Slot) : String :=
  (match f.1 with
   | .t16 => "T"
   | .t8 => "B"
   | .sm => "S") ++ toString f.2.toNat

/-- The suffix of `COMP.*` when `HA` is 1 (R110). -/
def suffix (ha : Bool) : String := if ha then ".A" else ""

/-- The mnemonic (R92), with the suffix. -/
def mnemonicText : Instr → String
  | .nop => "NOP"
  | .compNormal ha _ _ => "COMP.NORMAL" ++ suffix ha
  | .compMultiply ha _ _ => "COMP.MULTIPLY" ++ suffix ha
  | .compScreen ha _ _ => "COMP.SCREEN" ++ suffix ha
  | .compDarken ha _ _ => "COMP.DARKEN" ++ suffix ha
  | .compLighten ha _ _ => "COMP.LIGHTEN" ++ suffix ha
  | .compOverlay ha _ _ => "COMP.OVERLAY" ++ suffix ha
  | .compHardlight ha _ _ => "COMP.HARDLIGHT" ++ suffix ha
  | .compSoftlight ha _ _ => "COMP.SOFTLIGHT" ++ suffix ha
  | .compColordodge ha _ _ => "COMP.COLORDODGE" ++ suffix ha
  | .compColorburn ha _ _ => "COMP.COLORBURN" ++ suffix ha
  | .compDifference ha _ _ => "COMP.DIFFERENCE" ++ suffix ha
  | .compExclusion ha _ _ => "COMP.EXCLUSION" ++ suffix ha
  | .compHue ha _ _ => "COMP.HUE" ++ suffix ha
  | .compSaturation ha _ _ => "COMP.SATURATION" ++ suffix ha
  | .compColor ha _ _ => "COMP.COLOR" ++ suffix ha
  | .compLuminosity ha _ _ => "COMP.LUMINOSITY" ++ suffix ha
  | .dabn _ => "DABN"
  | .dabe _ => "DABE"
  | .dabl _ => "DABL"
  | .dabacc _ => "DABACC"
  | .cv16to8 _ _ => "CV16TO8"
  | .cv16to8x _ _ => "CV16TO8X"
  | .cv8to16 _ _ => "CV8TO16"
  | .tcpy16 _ _ => "TCPY16"
  | .tclr16 _ => "TCLR16"
  | .tcpy8 _ _ => "TCPY8"
  | .tclr8 _ => "TCLR8"
  | .flat _ _ => "FLAT"
  | .unflat _ _ => "UNFLAT"
  | .downs _ _ => "DOWNS"
  | .strk _ _ _ => "STRK"

/-- A command as R110 writes it: the destination first. -/
def instrText (i : Instr) : String :=
  match i.slotFields with
  | [] => mnemonicText i
  | f :: rest => rest.foldl (fun t g => t ++ ", " ++ slotText g) (mnemonicText i ++ " " ++ slotText f)

end Sys2Proof.Machine
end

