-- ==== Sys2Proof/Safety.lean ====
section
/-! DEFINITION. What claims are stated in: the invariant of the machine, the operand conditions
of the check levels, the cells a command may read and write, and well-formed masks. Nothing here is
used by the step. -/

namespace Sys2Proof.Machine

open Sys2Proof

/-! ### The invariant -/

/-- The hypothesis on the noise table: its length and its band (10_state.md R44, R47). -/
def noiseOk (noise : List Half) : Prop :=
  noise.length = Config.noiseLen ∧
    ∀ v ∈ noise, Config.noiseMin ≤ v.toNat ∧ v.toNat ≤ Config.noiseMax

/-- What holds at reset and after every step, from any state where it holds. -/
structure State.Inv (s : State) : Prop where
  /-- The memory is canonical. -/
  memWf : s.mem.wf = true
  /-- Only the writable memories hold anything (20_memory.md R62). -/
  memMapped : ∀ c ∈ s.mem, inWritable c.1 = true
  /-- 10_state.md R33: the legalised registers hold at most 32768. -/
  opacityLe : s.opacity.toNat ≤ 32768
  colorRLe : s.colorR.toNat ≤ 32768
  colorGLe : s.colorG.toNat ≤ 32768
  colorBLe : s.colorB.toNat ≤ 32768
  colorALe : s.colorA.toNat ≤ 32768
  /-- 10_state.md R44. -/
  noise : noiseOk s.noise
  /-- 10_state.md R28, R29: both fault registers are 0 while `ERR` is 0. -/
  faultClear : s.err = false → s.errCode = 0#4 ∧ s.errInfo = 0#22
  /-- 60_exceptions.md R301: a latched fault has one of the codes 1 to 9. -/
  faultSet : s.err = true → 1 ≤ s.errCode.toNat ∧ s.errCode.toNat ≤ 9
  /-- 10_state.md R29: `ERR_INFO[19:18]` is 0. -/
  infoReserved : s.errInfo.extractLsb' 18 2 = 0#2

/-! ### Operand conditions (60_exceptions.md R310) -/

/-- Level `RANGE3`. -/
def Pixel.Range3 (p : Pixel) : Prop := p.r ≤ 32768 ∧ p.g ≤ 32768 ∧ p.b ≤ 32768

/-- Level `RANGE4`. -/
def Pixel.Range4 (p : Pixel) : Prop := p.r ≤ 32768 ∧ p.g ≤ 32768 ∧ p.b ≤ 32768 ∧ p.a ≤ 32768

/-- Level `PREMUL`: `R,G,B ≤ A ≤ 32768`. -/
def Pixel.Premul (p : Pixel) : Prop := p.r ≤ p.a ∧ p.g ≤ p.a ∧ p.b ≤ p.a ∧ p.a ≤ 32768

/-- The destination condition of `COMP.*` (R310). -/
def Pixel.CompDst (ha : Bool) (p : Pixel) : Prop := if ha = true then p.Premul else p.Range3

/-- Every pixel of a working slot meets the condition. -/
def Memory.AllPixels (m : Memory) (s : Slot) (P : Pixel → Prop) : Prop :=
  ∀ i, i < 4096 → P (m.pixel16 s i)

/-! ### Reads and writes of a command (30_encoding.md R93) -/

/-- The bytes of a slot: first offset and length. -/
def slotRange (f : MemKind × Slot) : Nat × Nat :=
  match f.1 with
  | .t16 => (0x80000 + f.2.toNat * 0x8000, 0x8000)
  | .t8 => (0x40000 + f.2.toNat * 0x4000, 0x4000)
  | .sm => (0x30000 + f.2.toNat * 0x1000, 0x1000)

/-- Offset `a` lies in the slot. -/
def inSlot (f : MemKind × Slot) (a : Nat) : Prop :=
  (slotRange f).1 ≤ a ∧ a < (slotRange f).1 + (slotRange f).2

/-- Offset `a` lies in `MASK`. -/
def inMask (a : Nat) : Prop := 0x10000 ≤ a ∧ a < 0x14000

/-- The slot a command writes: the one its field `SA` names; `NOP` and `DABACC` write none. -/
def destOf : Instr → Option (MemKind × Slot)
  | .nop => none
  | .dabacc _ => none
  | i => i.slotFields.head?

/-- The command reads the mask memory. -/
def readsMask : Instr → Bool
  | .dabn _ | .dabe _ | .dabl _ | .dabacc _ => true
  | _ => false

/-- Offset `a` is one the command may read or write. -/
def touches (i : Instr) (a : Nat) : Prop :=
  (∃ f ∈ i.slotFields, inSlot f a) ∨ (readsMask i = true ∧ inMask a)

/-! ### Well-formed masks (30_encoding.md R106) -/

/-- A mask: segments, each a run and the skip count after it, then the last run. -/
structure MaskTree where
  segments : List (List Nat × Nat)
  last : List Nat

/-- The words of a segment: its run, the sentinel, its skip count. -/
def segmentWords (g : List Nat × Nat) : List Nat := g.1 ++ [0, g.2]

/-- The words of a mask (R106). -/
def MaskTree.words (t : MaskTree) : List Nat := t.segments.flatMap segmentWords ++ (t.last ++ [0, 0])

/-- A run from pixel `p` on: each value with its pixel. -/
def runVisits : Nat → List Nat → List (Nat × Nat)
  | _, [] => []
  | p, v :: rest => (p, v) :: runVisits (p + 1) rest

/-- The pixels a mask visits from pixel `p` on, in order, with their intensities. -/
def visitsFrom : Nat → List (List Nat × Nat) → List Nat → List (Nat × Nat)
  | p, [], last => runVisits p last
  | p, g :: rest, last => runVisits p g.1 ++ visitsFrom (p + g.1.length + g.2) rest last

/-- The pixels a mask visits, in order, with their intensities (43_dab.md R202). -/
def MaskTree.visits (t : MaskTree) : List (Nat × Nat) := visitsFrom 0 t.segments t.last

/-- The sum of run lengths and skip counts. -/
def MaskTree.span (t : MaskTree) : Nat :=
  (t.segments.map fun g => g.1.length + g.2).sum + t.last.length

/-- Run values 1 to 32768, skip counts at least 1, the cursor never past the tile's end, the words
inside `MASK` (R106, R108). -/
def MaskTree.Ok (t : MaskTree) : Prop :=
  (∀ g ∈ t.segments, (∀ v ∈ g.1, 1 ≤ v ∧ v ≤ 32768) ∧ 1 ≤ g.2) ∧
    (∀ v ∈ t.last, 1 ≤ v ∧ v ≤ 32768) ∧ t.span ≤ 4096 ∧ t.words.length ≤ 8192

/-- `MASK` holds the mask's words from word 0 on. -/
def Memory.HoldsMask (m : Memory) (t : MaskTree) : Prop :=
  ∀ j, j < t.words.length → m.mask j = t.words.getD j 0

/-! ### The results of the compositing engine, written out (41_composite.md) -/

/-- `unpremul(c, a)` of 40_fixed_point.md R125, written out. -/
def straight (c a : Nat) : Nat := if a = 0 then 0 else min (c * 32768 / a) 32768

/-- The pixel `COMP.NORMAL` leaves: R150 for the colours, R142 for the alpha. -/
def normalResult (op : Nat) (ha : Bool) (S D : Pixel) : Pixel :=
  let as := S.a * op / 32768
  let k := 32768 - as
  ⟨S.r * op / 32768 + k * D.r / 32768,
   S.g * op / 32768 + k * D.g / 32768,
   S.b * op / 32768 + k * D.b / 32768,
   if ha = true then as + k * D.a / 32768 else D.a⟩

/-- The pixel a mode with blend function `B` leaves: R145 and R146 for the colours, R142 for the
alpha; with `HA` = 0 the backdrop is opaque and keeps its alpha cell (R143). -/
def blendResult (B : Rgb → Rgb → Rgb) (op : Nat) (ha : Bool) (S D : Pixel) : Pixel :=
  let as := S.a * op / 32768
  let ab := if ha = true then D.a else 32768
  let k := 32768 - as
  let cs : Rgb := ⟨straight S.r S.a, straight S.g S.a, straight S.b S.a⟩
  let cb : Rgb :=
    if ha = true then ⟨straight D.r D.a, straight D.g D.a, straight D.b D.a⟩ else ⟨D.r, D.g, D.b⟩
  let o := B cb cs
  ⟨S.r * op / 32768 * (32768 - ab) / 32768 + as * ab / 32768 * o.r / 32768 + k * D.r / 32768,
   S.g * op / 32768 * (32768 - ab) / 32768 + as * ab / 32768 * o.g / 32768 + k * D.g / 32768,
   S.b * op / 32768 * (32768 - ab) / 32768 + as * ab / 32768 * o.b / 32768 + k * D.b / 32768,
   if ha = true then as + k * ab / 32768 else D.a⟩

/-- The fifteen modes with a blend function, each instruction with its own (R151 to R165). -/
def blendModes : List ((Bool → Slot → Slot → Instr) × (Rgb → Rgb → Rgb)) :=
  [(.compMultiply, separable blendMultiply), (.compScreen, separable blendScreen),
   (.compDarken, separable blendDarken), (.compLighten, separable blendLighten),
   (.compOverlay, separable blendOverlay), (.compHardlight, separable blendHardlight),
   (.compSoftlight, separable blendSoftlight), (.compColordodge, separable blendColordodge),
   (.compColorburn, separable blendColorburn), (.compDifference, separable blendDifference),
   (.compExclusion, separable blendExclusion), (.compHue, blendHue),
   (.compSaturation, blendSaturation), (.compColor, blendColor),
   (.compLuminosity, blendLuminosity)]

/-- The sixteen instructions, each with the pixel it leaves. -/
def compModes : List ((Bool → Slot → Slot → Instr) × (Nat → Bool → Pixel → Pixel → Pixel)) :=
  (.compNormal, normalResult) :: blendModes.map fun e => (e.1, blendResult e.2)

/-! ### The results of the other engines, written out -/

/-- The pixel a paint command leaves (43_dab.md R210, R211), with the paint's share `oa`, the
destination's share `ob`, the flat colour and the old pixel. -/
def paintResult (oa ob : Nat) (col : Rgb) (D : Pixel) : Pixel :=
  ⟨(oa * col.r + ob * D.r) / 32768, (oa * col.g + ob * D.g) / 32768,
   (oa * col.b + ob * D.b) / 32768, oa + ob * D.a / 32768⟩

/-- The three paint commands, each with the pixel it leaves where the mask visits with intensity `v`
(43_dab.md R204, R210, R211, R212). -/
def paintModes : List ((Slot → Instr) × (State → Nat → Pixel → Pixel)) :=
  [(.dabn, fun s v D =>
      paintResult (v * s.opacity.toNat / 32768) (32768 - v * s.opacity.toNat / 32768)
        ⟨s.colorR.toNat, s.colorG.toNat, s.colorB.toNat⟩ D),
   (.dabe, fun s v D =>
      paintResult (v * s.opacity.toNat / 32768 * s.colorA.toNat / 32768)
        (32768 - v * s.opacity.toNat / 32768) ⟨s.colorR.toNat, s.colorG.toNat, s.colorB.toNat⟩ D),
   (.dabl, fun s v D =>
      { paintResult (v * s.opacity.toNat / 32768 * D.a / 32768)
          (32768 - v * s.opacity.toNat / 32768)
          ⟨s.colorR.toNat, s.colorG.toNat, s.colorB.toNat⟩ D with a := D.a })]

/-- The un-premultiplied, rounded channel of `CV16TO8` (44_convert.md R233). -/
def straightRound (c a : Nat) : Nat := if a = 0 then 0 else (c * 32768 + a / 2) / a

/-- The pixel `CV16TO8` writes, with its two noise samples (R233). -/
def storageResult (nc na : Nat) (p : Pixel) : Pixel :=
  ⟨(straightRound p.r p.a * 255 + nc) / 32768, (straightRound p.g p.a * 255 + nc) / 32768,
   (straightRound p.b p.a * 255 + nc) / 32768, (p.a * 255 + na) / 32768⟩

/-- The pixel `CV16TO8X` writes, with its noise sample (R234). -/
def displayResult (n : Nat) (p : Pixel) : Pixel :=
  ⟨(p.r * 255 + n) / 32768, (p.g * 255 + n) / 32768, (p.b * 255 + n) / 32768, 255⟩

/-- The nearest fix15 value to `v/255` (R235). -/
def byteToFix (v : Nat) : Nat := (v * 32768 + 127) / 255

/-- The pixel `CV8TO16` writes (R235). -/
def workingResult (p : Pixel) : Pixel :=
  ⟨(byteToFix p.r * byteToFix p.a + 16384) / 32768, (byteToFix p.g * byteToFix p.a + 16384) / 32768,
   (byteToFix p.b * byteToFix p.a + 16384) / 32768, byteToFix p.a⟩

/-- The pixel `FLAT` leaves over the background `G` (45_flatten.md R261). -/
def flatResult (G D : Pixel) : Pixel :=
  ⟨D.r + (32768 - D.a) * G.r / 32768, D.g + (32768 - D.a) * G.g / 32768,
   D.b + (32768 - D.a) * G.b / 32768, D.a⟩

/-- `q_c` of R262: the deviation from the background over the background or its complement, rounded
up, at most 32768. -/
def alphaNeeded (d g : Nat) : Nat :=
  if g < d then min 32768 (((d - g) * 32768 + (32768 - g - 1)) / (32768 - g))
  else if d < g then min 32768 (((g - d) * 32768 + (g - 1)) / g)
  else 0

/-- `q_c` of R262 before its saturation: the two rounded-up quotients, with no `min`. -/
def alphaUnsaturated (d g : Nat) : Nat :=
  if g < d then ((d - g) * 32768 + (32768 - g - 1)) / (32768 - g)
  else if d < g then ((g - d) * 32768 + (g - 1)) / g
  else 0

/-- `fa` of R262. -/
def finalAlpha (G D : Pixel) : Nat :=
  max (max (max D.a (alphaNeeded D.r G.r)) (alphaNeeded D.g G.g)) (alphaNeeded D.b G.b)

/-- The back-solved colour of R262: `mul(g, fa) + (d - g)` clamped to `0 .. fa`. -/
def solved (d g fa : Nat) : Nat := min fa (g * fa / 32768 + d - g)

/-- The pixel `UNFLAT` leaves (R262). -/
def unflatResult (G D : Pixel) : Pixel :=
  if finalAlpha G D = 0 then ⟨0, 0, 0, 0⟩
  else
    ⟨solved D.r G.r (finalAlpha G D), solved D.g G.g (finalAlpha G D),
     solved D.b G.b (finalAlpha G D), finalAlpha G D⟩

/-- The average of four pixels (46_downscale.md R271). -/
def boxResult (p q r t : Pixel) : Pixel :=
  ⟨(p.r + q.r + r.r + t.r) / 4, (p.g + q.g + r.g + t.g) / 4, (p.b + q.b + r.b + t.b) / 4,
   (p.a + q.a + r.a + t.a) / 4⟩

/-- The pixel `DOWNS` writes at window position `(x, y)`: the average of the source pixels in columns
`2x`, `2x + 1` and rows `2y`, `2y + 1` (R271). -/
def Memory.boxAt (m : Memory) (s : Slot) (x y : Nat) : Pixel :=
  boxResult (m.pixel16 s ((2 * y) * 64 + 2 * x)) (m.pixel16 s ((2 * y) * 64 + (2 * x + 1)))
    (m.pixel16 s ((2 * y + 1) * 64 + 2 * x)) (m.pixel16 s ((2 * y + 1) * 64 + (2 * x + 1)))

/-- `|x - y|`. -/
def absDiff (x y : Nat) : Nat := (x - y) + (y - x)

/-- `STRK` flags the pixel: (a), (b) or (c) of 47_stroke.md R281. -/
def StrokeFlagged (bf af : Pixel) : Prop :=
  (absDiff (af.r * bf.a) (bf.r * af.a) + absDiff (af.g * bf.a) (bf.g * af.a)
      + absDiff (af.b * bf.a) (bf.b * af.a)) / 32768 > max bf.a af.a / 16 ∨
    af.a > bf.a + 8192 ∨ (af.a > bf.a + 512 ∧ af.a > bf.a + bf.a / 2)

/-! ### Legal command words and legal accesses -/

/-- The rows of spec/opcode_table.json, mask and match (30_encoding.md R97). -/
def commandRows : List (Word × Word) :=
  [(0xFFFFFFFF, 0x00000000),
   (0xFFFEFF00, 0x10000000), (0xFFFEFF00, 0x11000000), (0xFFFEFF00, 0x12000000),
   (0xFFFEFF00, 0x13000000), (0xFFFEFF00, 0x14000000), (0xFFFEFF00, 0x15000000),
   (0xFFFEFF00, 0x16000000), (0xFFFEFF00, 0x17000000), (0xFFFEFF00, 0x18000000),
   (0xFFFEFF00, 0x19000000), (0xFFFEFF00, 0x1A000000), (0xFFFEFF00, 0x1B000000),
   (0xFFFEFF00, 0x1C000000), (0xFFFEFF00, 0x1D000000), (0xFFFEFF00, 0x1E000000),
   (0xFFFEFF00, 0x1F000000),
   (0xFFFFFFF0, 0x30000000), (0xFFFFFFF0, 0x31000000), (0xFFFFFFF0, 0x32000000),
   (0xFFFFFFF0, 0x33000000),
   (0xFFFFFF00, 0x40000000), (0xFFFFFF00, 0x41000000), (0xFFFFFF00, 0x42000000),
   (0xFFFFFF00, 0x43000000), (0xFFFFFFF0, 0x44000000), (0xFFFFFF00, 0x45000000),
   (0xFFFFFFF0, 0x46000000),
   (0xFFFFFF00, 0x50000000), (0xFFFFFF00, 0x51000000),
   (0xFFFFFF00, 0x60000000), (0xFFFFF000, 0x70000000)]

/-- The offsets of the registers (10_state.md R21). -/
def registerOffsets : List Nat :=
  [0x000, 0x004, 0x008, 0x00C, 0x010, 0x014, 0x018, 0x020, 0x024, 0x028, 0x02C, 0x030, 0x034, 0x038,
   0x040, 0x044, 0x048, 0x04C, 0x050, 0x054, 0x058, 0x05C, 0x060, 0x064]

/-- Offset `a` lies in `MASK`, `SM`, `T8` or `T16` (20_memory.md R62). -/
def inRam (a : Nat) : Prop :=
  (0x10000 ≤ a ∧ a < 0x14000) ∨ (0x30000 ≤ a ∧ a < 0x31000) ∨ (0x40000 ≤ a ∧ a < 0x48000) ∨
    (0x80000 ≤ a ∧ a < 0xA0000)

/-- Offset `a` lies in `NOISE` (R62). -/
def inRom (a : Nat) : Prop := 0x20000 ≤ a ∧ a < 0x24000

/-- A read of `n` bytes at `a` is legal (R64). -/
def LegalRead (a n : Nat) : Prop :=
  (a ∈ registerOffsets ∧ n = 4) ∨ ((inRam a ∨ inRom a) ∧ a % n = 0)

/-- A write of `n` bytes at `a` is legal (R64). -/
def LegalWrite (a n : Nat) : Prop := (a ∈ registerOffsets ∧ n = 4) ∨ (inRam a ∧ a % n = 0)

/-! ### How far a mask traversal comes (43_dab.md R202) -/

/-- The traversal comes to word `m`, inside a run, with its cursor on pixel `p`, having visited these
pixels with these intensities: every word before is well formed. -/
inductive MaskReach (mask : Nat → Nat) : Nat → Nat → List (Nat × Nat) → Prop where
  /-- It starts at word 0 and pixel 0. -/
  | start : MaskReach mask 0 0 []
  /-- A run value: one pixel is visited. -/
  | value (m p : Nat) (visits : List (Nat × Nat)) (h : MaskReach mask m p visits)
      (inside : m < 8192) (nonzero : 1 ≤ mask m) (legal : mask m ≤ 32768) (room : p < 4096) :
      MaskReach mask (m + 1) (p + 1) (visits ++ [(p, mask m)])
  /-- The sentinel and a skip count that is not zero. -/
  | skip (m p : Nat) (visits : List (Nat × Nat)) (h : MaskReach mask m p visits)
      (inside : m + 1 < 8192) (sentinel : mask m = 0) (nonzero : 1 ≤ mask (m + 1))
      (room : p + mask (m + 1) ≤ 4096) : MaskReach mask (m + 2) (p + mask (m + 1)) visits

/-- The mask is well formed and visits these pixels: the traversal comes to a sentinel whose skip
count is 0. -/
def MaskEnds (mask : Nat → Nat) (visits : List (Nat × Nat)) : Prop :=
  ∃ m p, MaskReach mask m p visits ∧ m + 1 < 8192 ∧ mask m = 0 ∧ mask (m + 1) = 0

/-- The pixels of slot `s` that are visited meet the condition. -/
def Memory.VisitedPixels (m : Memory) (s : Slot) (visits : List (Nat × Nat)) (P : Pixel → Prop) :
    Prop :=
  ∀ e ∈ visits, P (m.pixel16 s e.1)

/-- Offset `a` is a byte of pixel `i` of working slot `s` (20_memory.md R70). -/
def inPixel16 (s : Slot) (i a : Nat) : Prop :=
  0x80000 + s.toNat * 0x8000 + 8 * i ≤ a ∧ a < 0x80000 + s.toNat * 0x8000 + 8 * i + 8

/-- The scalar registers of the paint commands hold at most 32768, as legalisation leaves them
(10_state.md R33). -/
def State.ScalarsLegal (s : State) : Prop :=
  s.opacity.toNat ≤ 32768 ∧ s.colorR.toNat ≤ 32768 ∧ s.colorG.toNat ≤ 32768 ∧
    s.colorB.toNat ≤ 32768 ∧ s.colorA.toNat ≤ 32768

end Sys2Proof.Machine
end

