-- ==== Sys2Proof/Certificates/Slice0/Obligations.lean ====
section
/-! DEFINITION. The statements for the provers. Each docstring says which rule of spec/ the statement
formalises; where it rests on a choice of the model it names the log entry. -/

open Sys2Proof Sys2Proof.Machine

/-! ### Encoding -/

/-- Decoding the command word of an instruction gives the instruction, for all 32 instructions and
every value of every field (30_encoding.md R91, R92, R93). -/
def Obligations.DecodeOfEncode : Prop := ∀ i : Instr, decode (encode i) = .ok i

/-- No word decodes to an instruction whose own word it is not: there are no encodings that execute
as another instruction (30_encoding.md R97). -/
def Obligations.EncodeOfDecode : Prop :=
  ∀ (w : Word) (i : Instr), decode w = .ok i → encode i = w

/-- 30_encoding.md R97: a word is legal exactly when it matches a row; a word that matches none,
written to `CMD` while `ERR` is 0, raises `ILLEGAL_CMD`; a word that matches a row but names a slot
that does not exist raises `BAD_SLOT`, not `ILLEGAL_CMD`. -/
def Obligations.LegalCommandWords : Prop :=
  ∀ w : Word,
    ((∃ i, decode w = .ok i) ↔ ∃ r ∈ commandRows, w &&& r.1 = r.2) ∧
    ∀ (s : State) (rest : List HostEvent), s.inbox = .write 0x00010#20 .b4 w :: rest →
      s.status.getLsbD 1 = false →
      ((∀ r ∈ commandRows, w &&& r.1 ≠ r.2) →
        step s = .next { s with inbox := rest, answer := .ok, cmd := w, errCode := 1#4, errInfo := 0#22,
                                status := s.status ||| 2#2 }) ∧
      (∀ i, decode w = .ok i → i.wellFormed = false →
        ∃ n, n < 3 ∧
          step s = .next { s with inbox := rest, answer := .ok, cmd := w, errCode := 2#4,
                                  errInfo := BitVec.ofNat 22 (n * 2 ^ 20),
                                  status := s.status ||| 2#2 })

/-- Seven words written out from 30_encoding.md R92, R110 and the worked examples decode to the
instructions they stand for. -/
def Obligations.DecodeKnownWords : Prop :=
  decode 0x00000000#32 = .ok .nop ∧
  decode 0x11010001#32 = .ok (.compMultiply true 1#4 0#4) ∧
  decode 0x33000002#32 = .ok (.dabacc 2#4) ∧
  decode 0x40000021#32 = .ok (.cv16to8 1#4 2#4) ∧
  decode 0x51000003#32 = .ok (.unflat 3#4 0#4) ∧
  decode 0x60000001#32 = .ok (.downs 1#4 0#4) ∧
  decode 0x70000320#32 = .ok (.strk 0#4 2#4 3#4)

/-! ### The step, reset and the port -/

/-- A host write to `CMD` whose word decodes runs the instruction, on the state in which the event is
served, the answer is `OK` and `CMD` holds the word (30_encoding.md R94; the fields `inbox` and
`answer` are the model's, log 1 and log 2). -/
def Obligations.StepRunsDecodedCommand : Prop :=
  ∀ (s : State) (w : Word) (i : Instr) (rest : List HostEvent),
    s.inbox = .write 0x00010#20 .b4 w :: rest → s.status.getLsbD 1 = false → decode w = .ok i →
    step s = Machine.exec i { s with inbox := rest, answer := .ok, cmd := w }

/-- Every step and every instruction answers a next state: "for every state and every command word
the result is defined" (60_exceptions.md R303); a step with no event waiting changes nothing (R321;
log 3). -/
def Obligations.EveryStepAnswersNext : Prop :=
  (∀ s : State, ∃ t, step s = .next t) ∧
  (∀ (i : Instr) (s : State), ∃ t, Machine.exec i s = .next t) ∧
  (∀ s : State, s.inbox = [] → step s = .next s)

/-- The state after reset meets the invariant. That it holds the reference noise table and lists no
byte is the model's choice (log 4, log 5). -/
def Obligations.ResetMeetsInvariant : Prop := State.reset.Inv

/-- Every step keeps the invariant: canonical memory inside the writable memories, legalised scalar
registers (10_state.md R33), the noise band (R44), fault registers 0 while `ERR` is 0 and a code 1 to
9 while it is 1 (R28, R29, 60_exceptions.md R301). -/
def Obligations.StepKeepsInvariant : Prop :=
  ∀ s t : State, s.Inv → step s = .next t → t.Inv

/-- 70_reset_and_hazards.md R341: after a reset event `ID` and `CFG` read their constants and every
other register reads 0; the same of the reset state. -/
def Obligations.RegistersAfterReset : Prop :=
  ∀ t : State,
    (t = State.reset ∨
      ∃ s contents rest, s.inbox = .rst contents :: rest ∧ step s = .next t) →
    t.hostRead 0x000 .b4 = .data 0x4D595058#32 ∧ t.hostRead 0x004 .b4 = .data 0x00001246#32 ∧
    ∀ a, a ∈ registerOffsets → a ≠ 0x000 → a ≠ 0x004 → t.hostRead a .b4 = .data 0#32

/-- 70_reset_and_hazards.md R346: a reset event keeps `NOISE`, `ID` and `CFG` and nothing else; two
machines with the same table and the same waiting events are the same after it, whatever they held.
That the events still waiting stay, and that the writable memories hold after it the contents the event
carries (any contents, as R342 says), is the model's choice (log 7). -/
def Obligations.OnlyNoiseSurvivesReset : Prop :=
  (∀ (s s' : State) (contents : List Host.Cell) (rest : List HostEvent),
    s.inbox = .rst contents :: rest → s'.inbox = .rst contents :: rest → s.noise = s'.noise →
    ∃ t, step s = .next t ∧ step s' = .next t ∧ t.noise = s.noise ∧ t.inbox = rest ∧
      t.hostRead 0x000 .b4 = s.hostRead 0x000 .b4 ∧ t.hostRead 0x004 .b4 = s.hostRead 0x004 .b4) ∧
  (∀ m : Memory, m.wf = true → (∀ c ∈ m, inRam c.1) →
    ∀ (s : State) (rest : List HostEvent), s.inbox = .rst m :: rest →
      ∃ t, step s = .next t ∧ t.mem = m)

/-- 30_encoding.md R95: while `ERR` is 1 a write to `CMD` is answered `OK` and discarded whole;
clearing `ERR` resumes the engine: the next command word is executed. -/
def Obligations.HaltedEngineDiscards : Prop :=
  (∀ (s : State) (w : Word) (rest : List HostEvent), s.status.getLsbD 1 = true →
    s.inbox = .write 0x00010#20 .b4 w :: rest →
    step s = .next { s with inbox := rest, answer := .ok }) ∧
  (∀ (s : State) (w v : Word) (i : Instr) (rest : List HostEvent), v.getLsbD 1 = true →
    decode w = .ok i →
    s.inbox = .write 0x00008#20 .b4 v :: .write 0x00010#20 .b4 w :: rest →
    ∃ t, step s = .next t ∧ t.status.getLsbD 1 = false ∧
      step t = Machine.exec i { t with inbox := rest, answer := .ok, cmd := w })

/-- A host write to `STATUS` clears the flags whose bits are written as 1, and with `ERR` the two
fault registers; nothing else changes (10_state.md R24, 60_exceptions.md R309). -/
def Obligations.StatusWriteClears : Prop :=
  ∀ (s : State) (v : Word) (rest : List HostEvent), s.inbox = .write 0x00008#20 .b4 v :: rest →
    ∃ st, step s = .next { s with inbox := rest, answer := .ok, status := st,
                                  errCode := if v.getLsbD 1 then 0#4 else s.errCode,
                                  errInfo := if v.getLsbD 1 then 0#22 else s.errInfo } ∧
      (st.getLsbD 0 = true ↔ s.status.getLsbD 0 = true ∧ v.getLsbD 0 = false) ∧
      (st.getLsbD 1 = true ↔ s.status.getLsbD 1 = true ∧ v.getLsbD 1 = false)

/-- 10_state.md R33: a host write of `w` to `OPACITY`, `COLOR_R`, `COLOR_G`, `COLOR_B` or `COLOR_A`
stores `min(w, 32768)`, and a read returns it. -/
def Obligations.ScalarRegistersLegalise : Prop :=
  ∀ (s : State) (w : Word) (rest : List HostEvent) (a : Addr),
    a ∈ [0x00020#20, 0x00024#20, 0x00028#20, 0x0002C#20, 0x00030#20] →
    s.inbox = .write a .b4 w :: rest →
    ∃ (t : State) (v : Half), v.toNat = min w.toNat 32768 ∧ step s = .next t ∧
      t.hostRead a.toNat .b4 = .data (BitVec.ofNat 32 (min w.toNat 32768)) ∧
      t = { s with inbox := rest, answer := .ok,
                   opacity := if a = 0x00020#20 then v else s.opacity,
                   colorR := if a = 0x00024#20 then v else s.colorR,
                   colorG := if a = 0x00028#20 then v else s.colorG,
                   colorB := if a = 0x0002C#20 then v else s.colorB,
                   colorA := if a = 0x00030#20 then v else s.colorA }

/-- Host writes to `IRQ_EN`, `DST_X`, `DST_Y` and the ten accumulator words: the low bits kept, or one
half of the accumulator replaced (10_state.md R25, R32, R34). -/
def Obligations.PlainRegisterWrites : Prop :=
  ∀ (s : State) (v : Word) (rest : List HostEvent),
    (s.inbox = .write 0x0000C#20 .b4 v :: rest →
      step s = .next { s with inbox := rest, answer := .ok, irqEn := BitVec.ofNat 2 v.toNat }) ∧
    (s.inbox = .write 0x00034#20 .b4 v :: rest →
      step s = .next { s with inbox := rest, answer := .ok, dstX := BitVec.ofNat 16 v.toNat }) ∧
    (s.inbox = .write 0x00038#20 .b4 v :: rest →
      step s = .next { s with inbox := rest, answer := .ok, dstY := BitVec.ofNat 16 v.toNat }) ∧
    (s.inbox = .write 0x00040#20 .b4 v :: rest → ∃ x : BitVec 64,
      step s = .next { s with inbox := rest, answer := .ok, accW := x } ∧
        x.toNat = s.accW.toNat / 2 ^ 32 * 2 ^ 32 + v.toNat) ∧
    (s.inbox = .write 0x00044#20 .b4 v :: rest → ∃ x : BitVec 64,
      step s = .next { s with inbox := rest, answer := .ok, accW := x } ∧
        x.toNat = v.toNat * 2 ^ 32 + s.accW.toNat % 2 ^ 32) ∧
    (s.inbox = .write 0x00048#20 .b4 v :: rest → ∃ x : BitVec 64,
      step s = .next { s with inbox := rest, answer := .ok, accR := x } ∧
        x.toNat = s.accR.toNat / 2 ^ 32 * 2 ^ 32 + v.toNat) ∧
    (s.inbox = .write 0x0004C#20 .b4 v :: rest → ∃ x : BitVec 64,
      step s = .next { s with inbox := rest, answer := .ok, accR := x } ∧
        x.toNat = v.toNat * 2 ^ 32 + s.accR.toNat % 2 ^ 32) ∧
    (s.inbox = .write 0x00050#20 .b4 v :: rest → ∃ x : BitVec 64,
      step s = .next { s with inbox := rest, answer := .ok, accG := x } ∧
        x.toNat = s.accG.toNat / 2 ^ 32 * 2 ^ 32 + v.toNat) ∧
    (s.inbox = .write 0x00054#20 .b4 v :: rest → ∃ x : BitVec 64,
      step s = .next { s with inbox := rest, answer := .ok, accG := x } ∧
        x.toNat = v.toNat * 2 ^ 32 + s.accG.toNat % 2 ^ 32) ∧
    (s.inbox = .write 0x00058#20 .b4 v :: rest → ∃ x : BitVec 64,
      step s = .next { s with inbox := rest, answer := .ok, accB := x } ∧
        x.toNat = s.accB.toNat / 2 ^ 32 * 2 ^ 32 + v.toNat) ∧
    (s.inbox = .write 0x0005C#20 .b4 v :: rest → ∃ x : BitVec 64,
      step s = .next { s with inbox := rest, answer := .ok, accB := x } ∧
        x.toNat = v.toNat * 2 ^ 32 + s.accB.toNat % 2 ^ 32) ∧
    (s.inbox = .write 0x00060#20 .b4 v :: rest → ∃ x : BitVec 64,
      step s = .next { s with inbox := rest, answer := .ok, accA := x } ∧
        x.toNat = s.accA.toNat / 2 ^ 32 * 2 ^ 32 + v.toNat) ∧
    (s.inbox = .write 0x00064#20 .b4 v :: rest → ∃ x : BitVec 64,
      step s = .next { s with inbox := rest, answer := .ok, accA := x } ∧
        x.toNat = v.toNat * 2 ^ 32 + s.accA.toNat % 2 ^ 32)

/-- What a host read of each register returns, zero-extended (10_state.md R21 to R34). -/
def Obligations.RegisterReads : Prop :=
  ∀ s : State,
    s.hostRead 0x000 .b4 = .data 0x4D595058#32 ∧ s.hostRead 0x004 .b4 = .data 0x00001246#32 ∧
    s.hostRead 0x008 .b4 = .data (BitVec.ofNat 32 s.status.toNat) ∧
    s.hostRead 0x00C .b4 = .data (BitVec.ofNat 32 s.irqEn.toNat) ∧
    s.hostRead 0x010 .b4 = .data s.cmd ∧
    s.hostRead 0x014 .b4 = .data (BitVec.ofNat 32 s.errCode.toNat) ∧
    s.hostRead 0x018 .b4 = .data (BitVec.ofNat 32 s.errInfo.toNat) ∧
    s.hostRead 0x020 .b4 = .data (BitVec.ofNat 32 s.opacity.toNat) ∧
    s.hostRead 0x024 .b4 = .data (BitVec.ofNat 32 s.colorR.toNat) ∧
    s.hostRead 0x028 .b4 = .data (BitVec.ofNat 32 s.colorG.toNat) ∧
    s.hostRead 0x02C .b4 = .data (BitVec.ofNat 32 s.colorB.toNat) ∧
    s.hostRead 0x030 .b4 = .data (BitVec.ofNat 32 s.colorA.toNat) ∧
    s.hostRead 0x034 .b4 = .data (BitVec.ofNat 32 s.dstX.toNat) ∧
    s.hostRead 0x038 .b4 = .data (BitVec.ofNat 32 s.dstY.toNat) ∧
    s.hostRead 0x040 .b4 = .data (BitVec.ofNat 32 s.accW.toNat) ∧
    s.hostRead 0x044 .b4 = .data (BitVec.ofNat 32 (s.accW.toNat / 2 ^ 32)) ∧
    s.hostRead 0x048 .b4 = .data (BitVec.ofNat 32 s.accR.toNat) ∧
    s.hostRead 0x04C .b4 = .data (BitVec.ofNat 32 (s.accR.toNat / 2 ^ 32)) ∧
    s.hostRead 0x050 .b4 = .data (BitVec.ofNat 32 s.accG.toNat) ∧
    s.hostRead 0x054 .b4 = .data (BitVec.ofNat 32 (s.accG.toNat / 2 ^ 32)) ∧
    s.hostRead 0x058 .b4 = .data (BitVec.ofNat 32 s.accB.toNat) ∧
    s.hostRead 0x05C .b4 = .data (BitVec.ofNat 32 (s.accB.toNat / 2 ^ 32)) ∧
    s.hostRead 0x060 .b4 = .data (BitVec.ofNat 32 s.accA.toNat) ∧
    s.hostRead 0x064 .b4 = .data (BitVec.ofNat 32 (s.accA.toNat / 2 ^ 32))

/-- 20_memory.md R65: an access that is not legal is answered `ERROR` and changes nothing (a read has
no data), no flag included; a legal read has data and changes nothing; a write to `ID`, `CFG`,
`ERR_CODE` or `ERR_INFO` is answered `OK` and changes nothing. -/
def Obligations.RefusedAccessChangesNothing : Prop :=
  ∀ (s : State) (a : Addr) (n : Size) (v : Word) (rest : List HostEvent),
    (s.inbox = .write a n v :: rest → ¬ LegalWrite a.toNat n.bytes →
      step s = .next { s with inbox := rest, answer := .error }) ∧
    (s.inbox = .read a n :: rest → ¬ LegalRead a.toNat n.bytes →
      step s = .next { s with inbox := rest, answer := .error }) ∧
    (s.inbox = .read a n :: rest → LegalRead a.toNat n.bytes →
      ∃ d, step s = .next { s with inbox := rest, answer := .data d }) ∧
    (s.inbox = .write a .b4 v :: rest → a ∈ [0x00000#20, 0x00004#20, 0x00014#20, 0x00018#20] →
      step s = .next { s with inbox := rest, answer := .ok })

/-- 20_memory.md R66: a legal host write of `n` bytes to the writable memories stores byte
`(v >> 8j) mod 256` at `addr + j` and changes no other byte and no register; a legal host read returns
the little-endian sum of the bytes; a 16-bit read of `NOISE` cell `k` returns the parameter's cell
(R74). -/
def Obligations.LittleEndianMemory : Prop :=
  ∀ (s : State) (a : Addr) (n : Size) (v : Word) (rest : List HostEvent),
    let byte := fun j => (s.mem.read (a.toNat + j)).toNat
    (inRam a.toNat → a.toNat % n.bytes = 0 → s.inbox = .write a n v :: rest →
      ∃ m, step s = .next { s with inbox := rest, answer := .ok, mem := m } ∧
        (∀ j, j < n.bytes → (m.read (a.toNat + j)).toNat = v.toNat / 256 ^ j % 256) ∧
        ∀ x, ¬ (a.toNat ≤ x ∧ x < a.toNat + n.bytes) → m.read x = s.mem.read x) ∧
    (inRam a.toNat → s.inbox = .read a .b1 :: rest →
      step s = .next { s with inbox := rest, answer := .data (BitVec.ofNat 32 (byte 0)) }) ∧
    (inRam a.toNat → a.toNat % 2 = 0 → s.inbox = .read a .b2 :: rest →
      step s = .next { s with inbox := rest,
                              answer := .data (BitVec.ofNat 32 (byte 0 + byte 1 * 256)) }) ∧
    (inRam a.toNat → a.toNat % 4 = 0 → s.inbox = .read a .b4 :: rest →
      step s = .next { s with inbox := rest,
                              answer := .data (BitVec.ofNat 32
                                (byte 0 + byte 1 * 256 + byte 2 * 256 ^ 2 + byte 3 * 256 ^ 3)) }) ∧
    (∀ (k : Nat) (c : Half), k < 8192 → s.noise[k]? = some c → a.toNat = 0x20000 + 2 * k →
      s.inbox = .read a .b2 :: rest →
      step s = .next { s with inbox := rest, answer := .data (BitVec.ofNat 32 c.toNat) })

/-- `PIX16 Ts, i, r, g, b, a` (30_encoding.md R111): its two transactions leave pixel `i` of the slot
as given, every other byte and every register as before. -/
def Obligations.Pix16StoresPixel : Prop :=
  ∀ (s : State) (ts : Slot) (i : Nat) (r g b a : Half) (rest : List HostEvent), ts.toNat < 4 →
    i < 4096 → s.inbox = (Stmt.pix16 ts i r g b a).expand ++ rest →
    ∃ t m, step s = .next t ∧ step t = .next { s with inbox := rest, answer := .ok, mem := m } ∧
      m.pixel16 ts i = ⟨r.toNat, g.toNat, b.toNat, a.toNat⟩ ∧
      ∀ x, ¬ inPixel16 ts i x → m.read x = s.mem.read x

/-- The line `irq` (10_state.md R25, 60_exceptions.md R320): a level, low after reset. Every command
and every `CMD` write while `ERR` is 0 ends in one of two ways: it completes, which raises the line where
`DONE_IE` is set, or it faults, which raises it where `ERR_IE` is set; `NOP` does the first, a word that
is no well-formed instruction the second. A `STATUS` write of 3 lowers the line. -/
def Obligations.IrqFollowsFlags : Prop :=
  (∀ s : State, s.irq = true ↔
    (s.status.getLsbD 0 = true ∧ s.irqEn.getLsbD 0 = true) ∨
      (s.status.getLsbD 1 = true ∧ s.irqEn.getLsbD 1 = true)) ∧
  State.reset.irq = false ∧
  (∀ s : State, ∃ t, Machine.exec .nop s = .next t ∧ (s.irqEn.getLsbD 0 = true → t.irq = true)) ∧
  (∀ (i : Instr) (s : State), ∃ t, Machine.exec i s = .next t ∧ t.irqEn = s.irqEn ∧
    ((t.status.getLsbD 0 = true ∧ t.status.getLsbD 1 = s.status.getLsbD 1 ∧
        (s.irqEn.getLsbD 0 = true → t.irq = true)) ∨
      (t.status.getLsbD 1 = true ∧ t.status.getLsbD 0 = s.status.getLsbD 0 ∧
        (s.irqEn.getLsbD 1 = true → t.irq = true)))) ∧
  (∀ (s : State) (w : Word) (rest : List HostEvent), s.inbox = .write 0x00010#20 .b4 w :: rest →
    s.status.getLsbD 1 = false →
    ∃ t, step s = .next t ∧ t.irqEn = s.irqEn ∧
      ((t.status.getLsbD 0 = true ∧ t.status.getLsbD 1 = false ∧
          (s.irqEn.getLsbD 0 = true → t.irq = true)) ∨
        (t.status.getLsbD 1 = true ∧ t.status.getLsbD 0 = s.status.getLsbD 0 ∧
          (s.irqEn.getLsbD 1 = true → t.irq = true))) ∧
      ((∀ i, decode w = .ok i → i.wellFormed = false) →
        t.status.getLsbD 1 = true ∧ (s.irqEn.getLsbD 1 = true → t.irq = true))) ∧
  (∀ (s : State) (rest : List HostEvent), s.inbox = .write 0x00008#20 .b4 3#32 :: rest →
    ∃ t, step s = .next t ∧ t.irq = false)

/-! ### Commands in general -/

/-- Every command ends in one of three ways and changes nothing else: it completes with `DONE`; or, a
`DABACC`, it also adds to the accumulators; or it raises one fault with a code 2 to 9, which writes
`ERR_CODE`, `ERR_INFO` and `ERR`. In every case no byte outside the slot its field `SA` names has
changed, and none at all for `NOP` and `DABACC` (30_encoding.md R93, R96, 10_state.md R46,
60_exceptions.md R306, R307). -/
def Obligations.CommandCompletesOrFaults : Prop :=
  ∀ (i : Instr) (s : State), ∃ m : Memory,
    (Machine.exec i s = .next { s with mem := m, status := s.status ||| 1#2 } ∨
      (∃ (sa : Slot) (w r g b a : Nat), i = .dabacc sa ∧
        Machine.exec i s = .next { s with mem := m, status := s.status ||| 1#2,
                                          accW := s.accW + BitVec.ofNat 64 w,
                                          accR := s.accR + BitVec.ofNat 64 r,
                                          accG := s.accG + BitVec.ofNat 64 g,
                                          accB := s.accB + BitVec.ofNat 64 b,
                                          accA := s.accA + BitVec.ofNat 64 a }) ∨
      (∃ (code : Nat) (info : BitVec 22), 2 ≤ code ∧ code ≤ 9 ∧
        Machine.exec i s = .next { s with mem := m, errCode := BitVec.ofNat 4 code, errInfo := info,
                                          status := s.status ||| 2#2 })) ∧
    ∀ x, (∀ d, destOf i = some d → ¬ inSlot d x) → m.read x = s.mem.read x

/-- What a command does depends on the bytes of the slots it names, of `MASK` for the dab commands, on
the registers and on `NOISE`, and on nothing else: "two identical commands from identical state give
identical results" (10_state.md R49, 30_encoding.md R93). -/
def Obligations.CommandDependsOnNamedOperands : Prop :=
  ∀ (i : Instr) (s : State) (m : Memory), (∀ x, touches i x → m.read x = s.mem.read x) →
    ∃ t t' : State, Machine.exec i s = .next t ∧ Machine.exec i { s with mem := m } = .next t' ∧
      { t' with mem := t.mem } = t ∧ (∀ x, touches i x → t'.mem.read x = t.mem.read x) ∧
      ∀ x, ¬ touches i x → t'.mem.read x = m.read x

/-- `BAD_SLOT` (30_encoding.md R94 step 4, 60_exceptions.md R302): the first field, in the order `SA`,
`SB`, `SC`, that names no slot is recorded in `OPND`, and nothing but the fault registers changes. -/
def Obligations.BadSlotReportsFirstField : Prop :=
  ∀ (i : Instr) (s : State) (n : Nat) (f : MemKind × Slot), i.slotFields[n]? = some f →
    f.1.slots ≤ f.2.toNat →
    (∀ k, k < n → ∀ g, i.slotFields[k]? = some g → g.2.toNat < g.1.slots) →
    Machine.exec i s = .next { s with errCode := 2#4, errInfo := BitVec.ofNat 22 (n * 2 ^ 20),
                                      status := s.status ||| 2#2 }

/-- The operand check of one pixel, comparison by comparison (60_exceptions.md R302, R310, R311): the
range of R, G, B, A, and only if all pass the colours against alpha; `RANGE3` leaves alpha out,
`RANGE3` and `RANGE4` compare no colour with alpha. And the fields of `ERR_INFO` (10_state.md R29):
`IDX` at bit 0, `CH` at bit 16, `OPND` at bit 20. -/
def Obligations.PixelCheckAndFaultInfo : Prop :=
  (∀ (p : Pixel) (o : Operand) (i : Nat),
    p.check .premul o i =
      (if p.r > 32768 then some ⟨.pixRange, i, 0, o.code⟩
       else if p.g > 32768 then some ⟨.pixRange, i, 1, o.code⟩
       else if p.b > 32768 then some ⟨.pixRange, i, 2, o.code⟩
       else if p.a > 32768 then some ⟨.pixRange, i, 3, o.code⟩
       else if p.r > p.a then some ⟨.pixPremul, i, 0, o.code⟩
       else if p.g > p.a then some ⟨.pixPremul, i, 1, o.code⟩
       else if p.b > p.a then some ⟨.pixPremul, i, 2, o.code⟩
       else none) ∧
    p.check .range4 o i =
      (if p.r > 32768 then some ⟨.pixRange, i, 0, o.code⟩
       else if p.g > 32768 then some ⟨.pixRange, i, 1, o.code⟩
       else if p.b > 32768 then some ⟨.pixRange, i, 2, o.code⟩
       else if p.a > 32768 then some ⟨.pixRange, i, 3, o.code⟩
       else none) ∧
    p.check .range3 o i =
      (if p.r > 32768 then some ⟨.pixRange, i, 0, o.code⟩
       else if p.g > 32768 then some ⟨.pixRange, i, 1, o.code⟩
       else if p.b > 32768 then some ⟨.pixRange, i, 2, o.code⟩
       else none)) ∧
  ∀ f : FaultRec, f.idx < 2 ^ 16 → f.ch < 4 → f.opnd < 4 →
    f.info.toNat = f.idx + f.ch * 2 ^ 16 + f.opnd * 2 ^ 20

/-- 44_convert.md R241: `NOP` is the word 0 and no other, sets `DONE` and does nothing else; while
`ERR` is 1 it is discarded. -/
def Obligations.NopOnlySetsDone : Prop :=
  (∀ s : State, Machine.exec .nop s = .next { s with status := s.status ||| 1#2 }) ∧
  (∀ w : Word, decode w = .ok .nop ↔ w = 0#32) ∧
  (∀ (s : State) (rest : List HostEvent), s.inbox = .write 0x00010#20 .b4 0#32 :: rest →
    (s.status.getLsbD 1 = false →
      step s = .next { s with inbox := rest, answer := .ok, cmd := 0#32, status := s.status ||| 1#2 }) ∧
    (s.status.getLsbD 1 = true → step s = .next { s with inbox := rest, answer := .ok }))

/-! ### Fixed-point arithmetic -/

/-- The laws (a) to (g) of `mul` that the spec derives from its definition (40_fixed_point.md R126); that it is not associative and does not
distribute exactly is shown by a case of each. -/
def Obligations.MulLaws : Prop :=
  (∀ a a' b c d : Nat, a ≤ 32768 → a' ≤ 32768 → b ≤ 32768 → c ≤ 32768 → d ≤ 32768 →
    mul a 32768 = a ∧ mul a 0 = 0 ∧
    mul a b = mul b a ∧
    (a ≤ a' → mul a b ≤ mul a' b) ∧
    mul a b ≤ min a b ∧
    (mul a b + mul a (32768 - b) = a ∨ mul a b + mul a (32768 - b) + 1 = a) ∧
    (mul a (b + c) = mul a b + mul a c ∨ mul a (b + c) = mul a b + mul a c + 1) ∧
    mul a b + mul c d ≤ (a * b + c * d) / 2 ^ 15 ∧
    (a * b + c * d) / 2 ^ 15 ≤ mul a b + mul c d + 1) ∧
  (∃ a b c : Nat, a ≤ 32768 ∧ b ≤ 32768 ∧ c ≤ 32768 ∧ mul (mul a b) c ≠ mul a (mul b c)) ∧
  ∃ a b c : Nat, a ≤ 32768 ∧ b + c ≤ 32768 ∧ mul a (b + c) ≠ mul a b + mul a c

/-- The laws (a) to (c) of `div` that the spec derives from its definition (40_fixed_point.md R127). -/
def Obligations.DivLaws : Prop :=
  ∀ c a : Nat, c ≤ a → a ≤ 32768 → 0 < a →
    div c a ≤ 32768 ∧ div a a = 32768 ∧ div 0 a = 0 ∧
    (mul (div c a) a = c ∨ mul (div c a) a + 1 = c) ∧ div c 32768 = c

/-- 40_fixed_point.md R124: `isqrt(n)` is the greatest `r` with `r·r ≤ n`; the three examples. -/
def Obligations.IsqrtIsFloorRoot : Prop :=
  (∀ n : Nat, isqrt n * isqrt n ≤ n ∧ ∀ r : Nat, r * r ≤ n → r ≤ isqrt n) ∧
    isqrt (32768 * 2 ^ 15) = 32768 ∧ isqrt (8192 * 2 ^ 15) = 16384 ∧ isqrt (16384 * 2 ^ 15) = 23170

/-! ### The blend functions -/

/-- The separable blend functions in numbers (42_blend_modes.md R172, R180 to R191), for arguments in
`0 .. 32768`. -/
def Obligations.SeparableBlendFormulas : Prop :=
  ∀ cb cs : Nat, cb ≤ 32768 → cs ≤ 32768 →
    blendNormal cb cs = cs ∧
    blendMultiply cb cs = cs * cb / 32768 ∧
    blendScreen cb cs + cs * cb / 32768 = cs + cb ∧
    blendDarken cb cs = min cs cb ∧
    blendLighten cb cs = max cs cb ∧
    (cb ≤ 16384 → blendOverlay cb cs = cs * (2 * cb) / 32768) ∧
    (16384 < cb → blendOverlay cb cs + cs * (2 * cb - 32768) / 32768 = cs + (2 * cb - 32768)) ∧
    (cs ≤ 16384 → blendHardlight cb cs = cb * (2 * cs) / 32768) ∧
    (16384 < cs → blendHardlight cb cs + cb * (2 * cs - 32768) / 32768 = cb + (2 * cs - 32768)) ∧
    (cs ≤ 16384 →
      blendSoftlight cb cs + (32768 - 2 * cs) * cb / 32768 * (32768 - cb) / 32768 = cb) ∧
    (16384 < cs → cb ≤ 8192 →
      blendSoftlight cb cs = cb + (2 * cs - 32768) *
        (cb * (16 * (cb * cb / 32768) + 131072 - 12 * cb) / 32768 - cb) / 32768) ∧
    (16384 < cs → 8192 < cb →
      blendSoftlight cb cs = cb + (2 * cs - 32768) * (isqrt (cb * 32768) - cb) / 32768) ∧
    (blendColordodge 0 cs = 0) ∧
    (0 < cb → blendColordodge cb 32768 = 32768) ∧
    (0 < cb → cs < 32768 → blendColordodge cb cs = min 32768 (cb * 32768 / (32768 - cs))) ∧
    (blendColorburn 32768 cs = 32768) ∧
    (cb < 32768 → blendColorburn cb 0 = 0) ∧
    (cb < 32768 → 0 < cs →
      blendColorburn cb cs + min 32768 ((32768 - cb) * 32768 / cs) = 32768) ∧
    (cb ≤ cs → blendDifference cb cs + cb = cs) ∧ (cs ≤ cb → blendDifference cb cs + cs = cb) ∧
    blendExclusion cb cs + 2 * (cb * cs / 32768) = cb + cs

/-- Every one of the sixteen blend functions maps colours in range to a colour in range, the range law
that the spec derives from their definitions (42_blend_modes.md R177). -/
def Obligations.BlendRangeLaw : Prop :=
  ∀ cb cs : Rgb, cb.r ≤ 32768 → cb.g ≤ 32768 → cb.b ≤ 32768 →
    cs.r ≤ 32768 → cs.g ≤ 32768 → cs.b ≤ 32768 →
    ∀ B ∈ separable blendNormal :: blendModes.map Prod.snd,
      (B cb cs).r ≤ 32768 ∧ (B cb cs).g ≤ 32768 ∧ (B cb cs).b ≤ 32768

/-- The helpers of the non-separable modes in numbers (42_blend_modes.md R173 to R176). `Lum` is the
weighted sum, `Sat` the greatest channel less the least. `SetSat(c, s)` scales each channel's distance
from the least one, and is black where the channels are all equal; where they are not, it has saturation
exactly `s` and least channel 0, and it keeps the order of every two channels. `SetLum(c, l)` moves each
channel by `l - Lum(c)`; where the least or the greatest channel then leaves the range, each is scaled
towards `l` (the final clamp changes nothing), so the result has luminosity `l` or one off. -/
def Obligations.SetSatAndSetLum : Prop :=
  (∀ c : Rgb, lum c = (9830 * c.r + 19333 * c.g + 3605 * c.b) / 32768 ∧
    sat c = max c.r (max c.g c.b) - min c.r (min c.g c.b)) ∧
  (∀ (c : Rgb) (s : Nat),
    let mx := max c.r (max c.g c.b)
    let mn := min c.r (min c.g c.b)
    (mn < mx → setSat c s =
      ⟨(c.r - mn) * s / (mx - mn), (c.g - mn) * s / (mx - mn), (c.b - mn) * s / (mx - mn)⟩) ∧
    (mn = mx → setSat c s = ⟨0, 0, 0⟩)) ∧
  (∀ (c : Rgb) (s : Nat), ¬ (c.r = c.g ∧ c.g = c.b) →
    sat (setSat c s) = s ∧ (setSat c s).min3 = 0 ∧ (setSat c s).max3 = s ∧
    (c.r ≤ c.g → (setSat c s).r ≤ (setSat c s).g) ∧ (c.g ≤ c.r → (setSat c s).g ≤ (setSat c s).r) ∧
    (c.g ≤ c.b → (setSat c s).g ≤ (setSat c s).b) ∧ (c.b ≤ c.g → (setSat c s).b ≤ (setSat c s).g) ∧
    (c.b ≤ c.r → (setSat c s).b ≤ (setSat c s).r) ∧ (c.r ≤ c.b → (setSat c s).r ≤ (setSat c s).b)) ∧
  (∀ (c : Rgb) (l : Nat), c.r ≤ 32768 → c.g ≤ 32768 → c.b ≤ 32768 → l ≤ 32768 →
    let d : Int := (l : Int) - ((9830 * c.r + 19333 * c.g + 3605 * c.b) / 32768 : Nat)
    let n : Int := min ((c.r : Int) + d) (min ((c.g : Int) + d) ((c.b : Int) + d))
    let x : Int := max ((c.r : Int) + d) (max ((c.g : Int) + d) ((c.b : Int) + d))
    (∀ ch ∈ [Rgb.r, Rgb.g, Rgb.b],
      let v : Int := (ch c : Int) + d
      let o : Int := (ch (setLum c l) : Int)
      (0 ≤ n → x ≤ 32768 → o = v) ∧
      (n < 0 → o = (l : Int) + Int.fdiv ((v - l) * l) (l - n)) ∧
      (32768 < x → o = (l : Int) + Int.fdiv ((v - l) * (32768 - l)) (x - l))) ∧
    (lum (setLum c l) = l ∨ lum (setLum c l) + 1 = l ∨ lum (setLum c l) = l + 1))

/-- The non-separable modes (42_blend_modes.md R192 to R195), backdrop `cb` and source `cs`: Hue takes
the source's hue with the backdrop's saturation and luminosity, Saturation the source's saturation,
Color the source's hue and saturation, Luminosity the source's luminosity. And their grey cases: Hue and
Saturation leave a grey backdrop as it is; with a grey source both give the grey of the backdrop's
luminosity; Color of a grey source likewise, and Luminosity of a grey backdrop gives the grey of the
source's. -/
def Obligations.NonSeparableGreyCases : Prop :=
  (∀ cb cs : Rgb,
    blendHue cb cs = setLum (setSat cs (sat cb)) (lum cb) ∧
    blendSaturation cb cs = setLum (setSat cb (sat cs)) (lum cb) ∧
    blendColor cb cs = setLum cs (lum cb) ∧
    blendLuminosity cb cs = setLum cb (lum cs)) ∧
  ∀ (c : Rgb) (v : Nat), c.r ≤ 32768 → c.g ≤ 32768 → c.b ≤ 32768 → v ≤ 32768 →
    blendHue ⟨v, v, v⟩ c = ⟨v, v, v⟩ ∧ blendSaturation ⟨v, v, v⟩ c = ⟨v, v, v⟩ ∧
    blendHue c ⟨v, v, v⟩ = ⟨lum c, lum c, lum c⟩ ∧
    blendSaturation c ⟨v, v, v⟩ = ⟨lum c, lum c, lum c⟩ ∧
    blendColor c ⟨v, v, v⟩ = ⟨lum c, lum c, lum c⟩ ∧
    blendLuminosity ⟨v, v, v⟩ c = ⟨lum c, lum c, lum c⟩

/-! ### The compositing engine -/

/-- `COMP.NORMAL` completes and leaves in each pixel of `T16[SA]` the source-over result (41_composite.md
R142, R150): with `HA` = 0 the alpha cell as it was. Nothing else changes but `DONE`. -/
def Obligations.CompNormalResult : Prop :=
  ∀ (ha : Bool) (sa sb : Slot) (s : State), sa.toNat < 4 → sb.toNat < 4 →
    1 ≤ s.opacity.toNat → s.opacity.toNat ≤ 32768 →
    s.mem.AllPixels sb Pixel.Premul → s.mem.AllPixels sa (Pixel.CompDst ha) →
    ∃ m, Machine.exec (.compNormal ha sa sb) s =
        .next { s with mem := m, status := s.status ||| 1#2 } ∧
      (∀ i, i < 4096 → m.pixel16 sa i =
        normalResult s.opacity.toNat ha (s.mem.pixel16 sb i) (s.mem.pixel16 sa i)) ∧
      ∀ x, ¬ inSlot (.t16, sa) x → m.read x = s.mem.read x

/-- The fifteen other modes complete and leave in each pixel of `T16[SA]` the three-term result of
41_composite.md R146 with their blend function: `COMP.MULTIPLY`, `SCREEN`, `DARKEN`, `LIGHTEN`,
`OVERLAY`, `HARDLIGHT`, `SOFTLIGHT`, `COLORDODGE`, `COLORBURN`, `DIFFERENCE`, `EXCLUSION`, `HUE`,
`SATURATION`, `COLOR`, `LUMINOSITY` (the constructors `compMultiply` to `compLuminosity` of
`blendModes`). -/
def Obligations.CompBlendResult : Prop :=
  ∀ e ∈ blendModes, ∀ (ha : Bool) (sa sb : Slot) (s : State), sa.toNat < 4 → sb.toNat < 4 →
    1 ≤ s.opacity.toNat → s.opacity.toNat ≤ 32768 →
    s.mem.AllPixels sb Pixel.Premul → s.mem.AllPixels sa (Pixel.CompDst ha) →
    ∃ m, Machine.exec (e.1 ha sa sb) s = .next { s with mem := m, status := s.status ||| 1#2 } ∧
      (∀ i, i < 4096 → m.pixel16 sa i =
        blendResult e.2 s.opacity.toNat ha (s.mem.pixel16 sb i) (s.mem.pixel16 sa i)) ∧
      ∀ x, ¬ inSlot (.t16, sa) x → m.read x = s.mem.read x

/-- 41_composite.md R144: with `OPACITY` = 0 every `COMP.*` whose slots exist completes with nothing
but `DONE`, whatever the tiles hold; a slot that does not exist is still `BAD_SLOT`, and a word that
decodes to nothing is still `ILLEGAL_CMD`. -/
def Obligations.CompOpacityZero : Prop :=
  (∀ e ∈ compModes, ∀ (ha : Bool) (sa sb : Slot) (s : State), s.opacity = 0#16 →
    (sa.toNat < 4 → sb.toNat < 4 →
      Machine.exec (e.1 ha sa sb) s = .next { s with status := s.status ||| 1#2 }) ∧
    (¬ (sa.toNat < 4 ∧ sb.toNat < 4) →
      Machine.exec (e.1 ha sa sb) s =
        .next { s with errCode := 2#4, status := s.status ||| 2#2,
                       errInfo := BitVec.ofNat 22 (if sa.toNat < 4 then 2 ^ 20 else 0) })) ∧
  ∀ (s : State) (w : Word) (rest : List HostEvent), s.opacity = 0#16 →
    s.status.getLsbD 1 = false → (∀ i, decode w ≠ .ok i) →
    s.inbox = .write 0x00010#20 .b4 w :: rest →
    step s = .next { s with inbox := rest, answer := .ok, cmd := w, errCode := 1#4, errInfo := 0#22,
                            status := s.status ||| 2#2 }

/-- The result of each `COMP.*` on pixels that pass the checks: with `HA` = 1 it is premultiplied and in
range; with `HA` = 0 its colours are in range and its alpha is the old one (derived in
41_composite.md R147 and R143). -/
def Obligations.CompKeepsTileInvariant : Prop :=
  ∀ e ∈ compModes, ∀ (op : Nat) (S D : Pixel), op ≤ 32768 → S.Premul →
    (D.Premul → (e.2 op true S D).Premul) ∧
    (D.Range3 → (e.2 op false S D).Range3 ∧ (e.2 op false S D).a = D.a)

/-- Over a wholly transparent destination with alpha, at full opacity, every one of the sixteen modes
leaves the source (41_composite.md R149 (c)); the source's second testable property. -/
def Obligations.CompOverTransparentIsSource : Prop :=
  ∀ e ∈ compModes, ∀ (sa sb : Slot) (s : State), sa.toNat < 4 → sb.toNat < 4 → s.opacity = 32768#16 →
    s.mem.AllPixels sb Pixel.Premul → s.mem.AllPixels sa (fun D => D = ⟨0, 0, 0, 0⟩) →
    ∃ m, Machine.exec (e.1 true sa sb) s = .next { s with mem := m, status := s.status ||| 1#2 } ∧
      ∀ i, i < 4096 → m.pixel16 sa i = s.mem.pixel16 sb i

/-- The first data fault of a `COMP.*` (41_composite.md R148, 60_exceptions.md R307): at pixel `k` the
source is checked before the destination; the pixels before `k` hold their results, and every other
byte is as it was. -/
def Obligations.CompFaultIsPrecise : Prop :=
  ∀ e ∈ compModes, ∀ (ha : Bool) (sa sb : Slot) (s : State) (k : Nat) (f : FaultRec),
    sa.toNat < 4 → sb.toNat < 4 → 1 ≤ s.opacity.toNat → s.opacity.toNat ≤ 32768 → k < 4096 →
    (∀ j, j < k → (s.mem.pixel16 sb j).Premul ∧ (s.mem.pixel16 sa j).CompDst ha) →
    ((s.mem.pixel16 sb k).check .premul .b k = some f ∨
      (s.mem.pixel16 sb k).Premul ∧
        (s.mem.pixel16 sa k).check (if ha = true then .premul else .range3) .a k = some f) →
    ∃ m, Machine.exec (e.1 ha sa sb) s =
        .next { s with mem := m, errCode := BitVec.ofNat 4 f.cause.code, errInfo := f.info,
                       status := s.status ||| 2#2 } ∧
      (∀ j, j < k → m.pixel16 sa j =
        e.2 s.opacity.toNat ha (s.mem.pixel16 sb j) (s.mem.pixel16 sa j)) ∧
      ∀ x, (∀ j, j < k → ¬ inPixel16 sa j x) → m.read x = s.mem.read x

/-! ### The dab renderer -/

/-- A mask of the grammar of 30_encoding.md R106, inside the tile and inside `MASK` (R108), is walked
to its end, and the pixels visited are those of its runs (43_dab.md R202, R215 (a)). -/
def Obligations.WellFormedMaskVisitsItsRuns : Prop :=
  ∀ (t : MaskTree) (m : Memory), t.Ok → m.HoldsMask t → MaskEnds m.mask t.visits

/-- `DABN` completes on a well-formed mask: each visited pixel holds the source-over paint of R210,
still premultiplied; no other byte changes (43_dab.md R202, R204, R210). -/
def Obligations.DabnResult : Prop :=
  ∀ (sa : Slot) (s : State) (visits : List (Nat × Nat)), sa.toNat < 4 → s.ScalarsLegal →
    MaskEnds s.mem.mask visits → s.mem.VisitedPixels sa visits Pixel.Premul →
    ∃ m, Machine.exec (.dabn sa) s = .next { s with mem := m, status := s.status ||| 1#2 } ∧
      (∀ e ∈ visits,
        m.pixel16 sa e.1 = paintResult (e.2 * s.opacity.toNat / 32768)
          (32768 - e.2 * s.opacity.toNat / 32768) ⟨s.colorR.toNat, s.colorG.toNat, s.colorB.toNat⟩
          (s.mem.pixel16 sa e.1) ∧
        (m.pixel16 sa e.1).Premul) ∧
      ∀ x, (∀ e ∈ visits, ¬ inPixel16 sa e.1 x) → m.read x = s.mem.read x

/-- `DABE` completes on a well-formed mask, with the paint's share scaled by `COLOR_A` (43_dab.md
R211). -/
def Obligations.DabeResult : Prop :=
  ∀ (sa : Slot) (s : State) (visits : List (Nat × Nat)), sa.toNat < 4 → s.ScalarsLegal →
    MaskEnds s.mem.mask visits → s.mem.VisitedPixels sa visits Pixel.Premul →
    ∃ m, Machine.exec (.dabe sa) s = .next { s with mem := m, status := s.status ||| 1#2 } ∧
      (∀ e ∈ visits,
        m.pixel16 sa e.1 = paintResult (e.2 * s.opacity.toNat / 32768 * s.colorA.toNat / 32768)
          (32768 - e.2 * s.opacity.toNat / 32768) ⟨s.colorR.toNat, s.colorG.toNat, s.colorB.toNat⟩
          (s.mem.pixel16 sa e.1) ∧
        (m.pixel16 sa e.1).Premul) ∧
      ∀ x, (∀ e ∈ visits, ¬ inPixel16 sa e.1 x) → m.read x = s.mem.read x

/-- `DABL` completes on a well-formed mask: the paint's share is scaled by the pixel's own alpha and
the alpha cell keeps its value (43_dab.md R212). -/
def Obligations.DablResult : Prop :=
  ∀ (sa : Slot) (s : State) (visits : List (Nat × Nat)), sa.toNat < 4 → s.ScalarsLegal →
    MaskEnds s.mem.mask visits → s.mem.VisitedPixels sa visits Pixel.Premul →
    ∃ m, Machine.exec (.dabl sa) s = .next { s with mem := m, status := s.status ||| 1#2 } ∧
      (∀ e ∈ visits,
        m.pixel16 sa e.1 =
          { paintResult (e.2 * s.opacity.toNat / 32768 * (s.mem.pixel16 sa e.1).a / 32768)
              (32768 - e.2 * s.opacity.toNat / 32768)
              ⟨s.colorR.toNat, s.colorG.toNat, s.colorB.toNat⟩ (s.mem.pixel16 sa e.1) with
            a := (s.mem.pixel16 sa e.1).a } ∧
        (m.pixel16 sa e.1).Premul) ∧
      ∀ x, (∀ e ∈ visits, ¬ inPixel16 sa e.1 x) → m.read x = s.mem.read x

/-- 43_dab.md R214: a `DABACC` whose traversal completes adds its sums (R213) to the five accumulators
modulo 2^64 and sets `DONE`; one that does not leaves all five as they were and raises a fault; no
other command changes an accumulator. -/
def Obligations.AccumulatorCommit : Prop :=
  (∀ (sa : Slot) (s : State) (visits : List (Nat × Nat)), sa.toNat < 4 →
    MaskEnds s.mem.mask visits → s.mem.VisitedPixels sa visits Pixel.Range4 →
    Machine.exec (.dabacc sa) s =
      .next { s with
        accW := BitVec.ofNat 64 (s.accW.toNat + (visits.map fun e => e.2).sum)
        accR := BitVec.ofNat 64
          (s.accR.toNat + (visits.map fun e => e.2 * (s.mem.pixel16 sa e.1).r / 32768).sum)
        accG := BitVec.ofNat 64
          (s.accG.toNat + (visits.map fun e => e.2 * (s.mem.pixel16 sa e.1).g / 32768).sum)
        accB := BitVec.ofNat 64
          (s.accB.toNat + (visits.map fun e => e.2 * (s.mem.pixel16 sa e.1).b / 32768).sum)
        accA := BitVec.ofNat 64
          (s.accA.toNat + (visits.map fun e => e.2 * (s.mem.pixel16 sa e.1).a / 32768).sum)
        status := s.status ||| 1#2 }) ∧
  (∀ (sa : Slot) (s : State),
    ¬ (sa.toNat < 4 ∧ ∃ visits, MaskEnds s.mem.mask visits ∧
        s.mem.VisitedPixels sa visits Pixel.Range4) →
    ∃ (code : Nat) (info : BitVec 22), 2 ≤ code ∧ code ≤ 9 ∧
      Machine.exec (.dabacc sa) s =
        .next { s with errCode := BitVec.ofNat 4 code, errInfo := info, status := s.status ||| 2#2 }) ∧
  (∀ (i : Instr) (s : State), (∀ sa, i ≠ .dabacc sa) →
    ∃ t, Machine.exec i s = .next t ∧ t.accW = s.accW ∧ t.accR = s.accR ∧ t.accG = s.accG ∧
      t.accB = s.accB ∧ t.accA = s.accA)

/-- The five mask faults (43_dab.md R202, R203) of `DABN`, `DABE`, `DABL` and `DABACC`: the cause and
the word index recorded. For the paint commands the pixels visited before hold their results and no other
byte has changed (R215 (f), 60_exceptions.md R307); `DABACC` changes nothing but the fault registers. -/
def Obligations.MaskFaults : Prop :=
  ∀ (sa : Slot) (s : State) (m p : Nat) (visits : List (Nat × Nat)) (code idx : Nat), sa.toNat < 4 →
    MaskReach s.mem.mask m p visits →
    (m = 8192 ∧ code = 9 ∧ idx = 8192 ∨
      m < 8192 ∧ s.mem.mask m > 32768 ∧ code = 7 ∧ idx = m ∨
      m < 8192 ∧ 1 ≤ s.mem.mask m ∧ s.mem.mask m ≤ 32768 ∧ p = 4096 ∧ code = 8 ∧ idx = m ∨
      m = 8191 ∧ s.mem.mask m = 0 ∧ code = 9 ∧ idx = 8192 ∨
      m < 8191 ∧ s.mem.mask m = 0 ∧ 1 ≤ s.mem.mask (m + 1) ∧ p + s.mem.mask (m + 1) > 4096 ∧
        code = 8 ∧ idx = m + 1) →
    (∀ c ∈ paintModes, s.mem.VisitedPixels sa visits Pixel.Premul →
      ∃ m', Machine.exec (c.1 sa) s =
          .next { s with mem := m', errCode := BitVec.ofNat 4 code,
                         errInfo := BitVec.ofNat 22 (idx + 3 * 2 ^ 20), status := s.status ||| 2#2 } ∧
        (s.ScalarsLegal → ∀ e ∈ visits, m'.pixel16 sa e.1 = c.2 s e.2 (s.mem.pixel16 sa e.1)) ∧
        ∀ x, (∀ e ∈ visits, ¬ inPixel16 sa e.1 x) → m'.read x = s.mem.read x) ∧
    (s.mem.VisitedPixels sa visits Pixel.Range4 →
      Machine.exec (.dabacc sa) s =
        .next { s with errCode := BitVec.ofNat 4 code, errInfo := BitVec.ofNat 22 (idx + 3 * 2 ^ 20),
                       status := s.status ||| 2#2 })

/-- The data faults of the dab commands (43_dab.md R204, R213, 60_exceptions.md R310, R311): the first
visited pixel that fails its check, `PREMUL` for `DABN`, `DABE` and `DABL`, `RANGE4` for `DABACC`. For the
paint commands the pixels visited before hold their results and no other byte has changed (R215 (f),
R307); `DABACC` changes nothing but the fault registers. -/
def Obligations.DabPixelFaults : Prop :=
  ∀ (sa : Slot) (s : State) (m p : Nat) (visits : List (Nat × Nat)) (f : FaultRec), sa.toNat < 4 →
    MaskReach s.mem.mask m p visits → m < 8192 → 1 ≤ s.mem.mask m → s.mem.mask m ≤ 32768 →
    p < 4096 →
    (∀ c ∈ paintModes, s.mem.VisitedPixels sa visits Pixel.Premul →
      (s.mem.pixel16 sa p).check .premul .a p = some f →
      ∃ m', Machine.exec (c.1 sa) s =
          .next { s with mem := m', errCode := BitVec.ofNat 4 f.cause.code, errInfo := f.info,
                         status := s.status ||| 2#2 } ∧
        (s.ScalarsLegal → ∀ e ∈ visits, m'.pixel16 sa e.1 = c.2 s e.2 (s.mem.pixel16 sa e.1)) ∧
        ∀ x, (∀ e ∈ visits, ¬ inPixel16 sa e.1 x) → m'.read x = s.mem.read x) ∧
    (s.mem.VisitedPixels sa visits Pixel.Range4 →
      (s.mem.pixel16 sa p).check .range4 .a p = some f →
      Machine.exec (.dabacc sa) s =
        .next { s with errCode := BitVec.ofNat 4 f.cause.code, errInfo := f.info,
                       status := s.status ||| 2#2 })

/-- With `COLOR_A` = 32768, `DABE` is `DABN` bit for bit, in every state, faults included (43_dab.md
R211, R215 (c)). -/
def Obligations.DabeAtFullAlphaIsDabn : Prop :=
  ∀ (sa : Slot) (s : State), s.colorA = 32768#16 →
    Machine.exec (.dabe sa) s = Machine.exec (.dabn sa) s

/-- `DABL` never changes an alpha cell, for any mask, colour and opacity, whether it completes or
faults (43_dab.md R212, R215 (b)); the source's eighth testable property. -/
def Obligations.DablNeverChangesAlpha : Prop :=
  ∀ (sa : Slot) (s : State), ∃ t, Machine.exec (.dabl sa) s = .next t ∧
    ∀ (slot : Slot) (i : Nat), slot.toNat < 4 → i < 4096 →
      (t.mem.pixel16 slot i).a = (s.mem.pixel16 slot i).a

/-! ### Converters, copies, clears -/

/-- `CV16TO8` completes on a premultiplied tile: pixel `i` is the dithered straight pixel with the
samples `NOISE[2i]` and `NOISE[2i + 1]` (44_convert.md R232, R233). The table's band is the
hypothesis of 10_state.md R47. -/
def Obligations.Cv16to8Result : Prop :=
  ∀ (sa sb : Slot) (s : State), sa.toNat < 2 → sb.toNat < 4 → noiseOk s.noise →
    s.mem.AllPixels sb Pixel.Premul →
    ∃ m, Machine.exec (.cv16to8 sa sb) s = .next { s with mem := m, status := s.status ||| 1#2 } ∧
      (∀ i, i < 4096 → m.pixel8 sa i =
        storageResult (s.noise.getD (2 * i) 0).toNat (s.noise.getD (2 * i + 1) 0).toNat
          (s.mem.pixel16 sb i)) ∧
      ∀ x, ¬ inSlot (.t8, sa) x → m.read x = s.mem.read x

/-- `CV16TO8X` completes on colours in range, whatever the alpha cells hold: pixel `i` is the dithered
opaque pixel with the sample `NOISE[i]` (44_convert.md R232, R234). -/
def Obligations.Cv16to8xResult : Prop :=
  ∀ (sa sb : Slot) (s : State), sa.toNat < 2 → sb.toNat < 4 → noiseOk s.noise →
    s.mem.AllPixels sb Pixel.Range3 →
    ∃ m, Machine.exec (.cv16to8x sa sb) s = .next { s with mem := m, status := s.status ||| 1#2 } ∧
      (∀ i, i < 4096 → m.pixel8 sa i =
        displayResult (s.noise.getD i 0).toNat (s.mem.pixel16 sb i)) ∧
      ∀ x, ¬ inSlot (.t8, sa) x → m.read x = s.mem.read x

/-- `CV8TO16` completes on any tile, and its result is premultiplied (44_convert.md R235). -/
def Obligations.Cv8to16Result : Prop :=
  ∀ (sa sb : Slot) (s : State), sa.toNat < 4 → sb.toNat < 2 →
    ∃ m, Machine.exec (.cv8to16 sa sb) s = .next { s with mem := m, status := s.status ||| 1#2 } ∧
      (∀ i, i < 4096 → m.pixel16 sa i = workingResult (s.mem.pixel8 sb i) ∧
        (m.pixel16 sa i).Premul) ∧
      ∀ x, ¬ inSlot (.t16, sa) x → m.read x = s.mem.read x

/-- The round-trip law for one pixel, (a) to (d), for any two samples in the band, which the spec derives
from the two converters (44_convert.md R238). -/
def Obligations.RoundTripLaw : Prop :=
  ∀ (P : Pixel) (nc na : Nat), P.r ≤ 255 → P.g ≤ 255 → P.b ≤ 255 → P.a ≤ 255 →
    984 ≤ nc → nc ≤ 31784 → 984 ≤ na → na ≤ 31784 →
    let P' := toStorage (toWorking P) nc na
    P'.a = P.a ∧
    (37 ≤ P.a → P' = P) ∧
    (1 ≤ P.a → P.a ≤ 36 → absDiff P'.r P.r ≤ 1 ∧ absDiff P'.g P.g ≤ 1 ∧ absDiff P'.b P.b ≤ 1) ∧
    (P.a = 0 → P' = ⟨0, 0, 0, 0⟩)

/-- The round trip of a whole tile: `CV8TO16` then `CV16TO8` into any storage slot gives back every
pixel whose alpha is at least 37 (44_convert.md R238; the source's third testable property). -/
def Obligations.RoundTripTile : Prop :=
  ∀ (t b b' : Slot) (s : State), t.toNat < 4 → b.toNat < 2 → b'.toNat < 2 → noiseOk s.noise →
    ∃ s1 s2 : State, Machine.exec (.cv8to16 t b) s = .next s1 ∧
      Machine.exec (.cv16to8 b' t) s1 = .next s2 ∧ s2.status = s.status ||| 1#2 ∧
      ∀ i, i < 4096 → 37 ≤ (s.mem.pixel8 b i).a → s2.mem.pixel8 b' i = s.mem.pixel8 b i

/-- `TCPY16` and `TCPY8` complete on any contents and copy every pixel; `TCLR16` and `TCLR8` complete
and leave every pixel `(0, 0, 0, 0)`; no other byte changes (44_convert.md R236, R237, R239, R240). -/
def Obligations.CopyAndClearResult : Prop :=
  ∀ (sa sb : Slot) (s : State),
    (sa.toNat < 4 → sb.toNat < 4 →
      ∃ m, Machine.exec (.tcpy16 sa sb) s = .next { s with mem := m, status := s.status ||| 1#2 } ∧
        (∀ i, i < 4096 → m.pixel16 sa i = s.mem.pixel16 sb i) ∧
        ∀ x, ¬ inSlot (.t16, sa) x → m.read x = s.mem.read x) ∧
    (sa.toNat < 2 → sb.toNat < 2 →
      ∃ m, Machine.exec (.tcpy8 sa sb) s = .next { s with mem := m, status := s.status ||| 1#2 } ∧
        (∀ i, i < 4096 → m.pixel8 sa i = s.mem.pixel8 sb i) ∧
        ∀ x, ¬ inSlot (.t8, sa) x → m.read x = s.mem.read x) ∧
    (sa.toNat < 4 →
      ∃ m, Machine.exec (.tclr16 sa) s = .next { s with mem := m, status := s.status ||| 1#2 } ∧
        (∀ i, i < 4096 → m.pixel16 sa i = ⟨0, 0, 0, 0⟩) ∧
        ∀ x, ¬ inSlot (.t16, sa) x → m.read x = s.mem.read x) ∧
    (sa.toNat < 2 →
      ∃ m, Machine.exec (.tclr8 sa) s = .next { s with mem := m, status := s.status ||| 1#2 } ∧
        (∀ i, i < 4096 → m.pixel8 sa i = ⟨0, 0, 0, 0⟩) ∧
        ∀ x, ¬ inSlot (.t8, sa) x → m.read x = s.mem.read x)

/-! ### Flatten and unflatten -/

/-- `FLAT` completes: each pixel is composited over its background pixel, colours in range, the alpha
cell as it was (45_flatten.md R261). -/
def Obligations.FlatResult : Prop :=
  ∀ (sa sb : Slot) (s : State), sa.toNat < 4 → sb.toNat < 4 →
    s.mem.AllPixels sb Pixel.Range3 → s.mem.AllPixels sa Pixel.Premul →
    ∃ m, Machine.exec (.flat sa sb) s = .next { s with mem := m, status := s.status ||| 1#2 } ∧
      (∀ i, i < 4096 →
        m.pixel16 sa i = flatResult (s.mem.pixel16 sb i) (s.mem.pixel16 sa i) ∧
        (m.pixel16 sa i).Range3) ∧
      ∀ x, ¬ inSlot (.t16, sa) x → m.read x = s.mem.read x

/-- `UNFLAT` completes: each pixel is the premultiplied pixel that explains its colour over the
background, with an alpha no less than before (45_flatten.md R262). -/
def Obligations.UnflatResult : Prop :=
  ∀ (sa sb : Slot) (s : State), sa.toNat < 4 → sb.toNat < 4 →
    s.mem.AllPixels sb Pixel.Range3 → s.mem.AllPixels sa Pixel.Range4 →
    ∃ m, Machine.exec (.unflat sa sb) s = .next { s with mem := m, status := s.status ||| 1#2 } ∧
      (∀ i, i < 4096 →
        m.pixel16 sa i = unflatResult (s.mem.pixel16 sb i) (s.mem.pixel16 sa i) ∧
        (m.pixel16 sa i).Premul ∧ (s.mem.pixel16 sa i).a ≤ (m.pixel16 sa i).a) ∧
      ∀ x, ¬ inSlot (.t16, sa) x → m.read x = s.mem.read x

/-- `FLAT` after `UNFLAT` over the same background gives each colour back, or one less; the clamps and
the saturation of `UNFLAT` change nothing on operands in range: no colour is cut, and each `q_c` is at most
32768 before its `min`, so the alpha is the greatest of the unsaturated ones (45_flatten.md R263 (b), (c),
R264). -/
def Obligations.FlatAfterUnflat : Prop :=
  ∀ G D : Pixel, G.Range3 → D.Range4 →
    let U := unflatResult G D
    let F := flatResult G U
    (F.r = D.r ∨ F.r + 1 = D.r) ∧ (F.g = D.g ∨ F.g + 1 = D.g) ∧ (F.b = D.b ∨ F.b + 1 = D.b) ∧
    (U.a ≠ 0 → U.r + G.r = G.r * U.a / 32768 + D.r ∧ U.g + G.g = G.g * U.a / 32768 + D.g ∧
      U.b + G.b = G.b * U.a / 32768 + D.b) ∧
    (U.a = 0 → F.r = D.r ∧ F.g = D.g ∧ F.b = D.b) ∧
    alphaUnsaturated D.r G.r ≤ 32768 ∧ alphaUnsaturated D.g G.g ≤ 32768 ∧
    alphaUnsaturated D.b G.b ≤ 32768 ∧
    U.a = max (max (max D.a (alphaUnsaturated D.r G.r)) (alphaUnsaturated D.g G.g))
      (alphaUnsaturated D.b G.b)

/-- `UNFLAT` after `FLAT` over the same background (45_flatten.md R263 (a), (d)): the recovered alpha
is at least the original and exceeds it by at most the largest `ceil(32767 / g_c)`; each recovered
colour is at most one less and at most `floor(e·g_c / 32768)` more; over black, white and the other
backgrounds of channels 0 and 32768 the round trip is exact. -/
def Obligations.UnflatAfterFlat : Prop :=
  ∀ G P : Pixel, G.Range3 → P.Premul →
    let Q := unflatResult G (flatResult G P)
    P.a ≤ Q.a ∧
    (∀ E, (G.r > 0 → (32767 + (G.r - 1)) / G.r ≤ E) → (G.g > 0 → (32767 + (G.g - 1)) / G.g ≤ E) →
      (G.b > 0 → (32767 + (G.b - 1)) / G.b ≤ E) → Q.a ≤ P.a + E) ∧
    P.r ≤ Q.r + 1 ∧ Q.r ≤ P.r + (Q.a - P.a) * G.r / 32768 ∧
    P.g ≤ Q.g + 1 ∧ Q.g ≤ P.g + (Q.a - P.a) * G.g / 32768 ∧
    P.b ≤ Q.b + 1 ∧ Q.b ≤ P.b + (Q.a - P.a) * G.b / 32768 ∧
    ((G.r = 0 ∨ G.r = 32768) → (G.g = 0 ∨ G.g = 32768) → (G.b = 0 ∨ G.b = 32768) → Q = P)

/-! ### Downscale -/

/-- `DOWNS` completes: the window's pixels are the averages of the 2×2 blocks of the source, and nothing
outside the window changes (46_downscale.md R270, R271); a uniform source of colour `C` gives a
uniform window of `C` (R272 (a); the source's seventh testable property). -/
def Obligations.DownsResult : Prop :=
  ∀ (sa sb : Slot) (s : State), sa.toNat < 4 → sb.toNat < 4 → sa ≠ sb → s.dstX.toNat ≤ 32 →
    s.dstY.toNat ≤ 32 → s.mem.AllPixels sb Pixel.Range4 →
    ∃ m, Machine.exec (.downs sa sb) s = .next { s with mem := m, status := s.status ||| 1#2 } ∧
      (∀ x y, x < 32 → y < 32 →
        m.pixel16 sa ((s.dstY.toNat + y) * 64 + s.dstX.toNat + x) = s.mem.boxAt sb x y) ∧
      (∀ C, s.mem.AllPixels sb (fun p => p = C) → ∀ x y, x < 32 → y < 32 →
        m.pixel16 sa ((s.dstY.toNat + y) * 64 + s.dstX.toNat + x) = C) ∧
      ∀ a, (∀ x y, x < 32 → y < 32 →
          ¬ inPixel16 sa ((s.dstY.toNat + y) * 64 + s.dstX.toNat + x) a) →
        m.read a = s.mem.read a

/-- The faults of `DOWNS` (46_downscale.md R271, 60_exceptions.md R302, R307, R308): the pre-checks in
their order, `ALIAS`, `BAD_PARAM` on `DST_X`, then on `DST_Y`, with no memory changed; then, at window
position `(x, y)`, the first of the four samples in the order (0,0), (1,0), (0,1), (1,1) that is out of
range, `IDX` its index in the source, the earlier window pixels written and no other byte. -/
def Obligations.DownsFaults : Prop :=
  (∀ (sa sb : Slot) (s : State), sa.toNat < 4 → sb.toNat < 4 →
    (sa = sb ∨ 32 < s.dstX.toNat ∨ 32 < s.dstY.toNat) →
    Machine.exec (.downs sa sb) s =
      .next { s with status := s.status ||| 2#2,
                     errCode := if sa = sb then 4#4 else 3#4,
                     errInfo := if sa = sb ∨ 32 < s.dstX.toNat then 0#22 else 1#22 }) ∧
  (∀ (sa sb : Slot) (s : State) (w : Nat) (f : FaultRec), sa.toNat < 4 → sb.toNat < 4 → sa ≠ sb →
    s.dstX.toNat ≤ 32 → s.dstY.toNat ≤ 32 → w < 1024 →
    (∀ v, v < w → ∀ dx dy, dx < 2 → dy < 2 →
      (s.mem.pixel16 sb ((2 * (v / 32) + dy) * 64 + (2 * (v % 32) + dx))).Range4) →
    [(0, 0), (1, 0), (0, 1), (1, 1)].findSome? (fun d : Nat × Nat =>
      (s.mem.pixel16 sb ((2 * (w / 32) + d.2) * 64 + (2 * (w % 32) + d.1))).check .range4 .b
        ((2 * (w / 32) + d.2) * 64 + (2 * (w % 32) + d.1))) = some f →
    ∃ m, Machine.exec (.downs sa sb) s =
        .next { s with mem := m, errCode := BitVec.ofNat 4 f.cause.code, errInfo := f.info,
                       status := s.status ||| 2#2 } ∧
      (∀ v, v < w → m.pixel16 sa ((s.dstY.toNat + v / 32) * 64 + s.dstX.toNat + v % 32) =
        s.mem.boxAt sb (v % 32) (v / 32)) ∧
      ∀ a, (∀ v, v < w →
          ¬ inPixel16 sa ((s.dstY.toNat + v / 32) * 64 + s.dstX.toNat + v % 32) a) →
        m.read a = s.mem.read a)

/-! ### The stroke map -/

/-- `STRK` completes: cell `i` of `SM` is 1 where the pixel is flagged and 0 where it is not
(47_stroke.md R281); so identical snapshots give an all-zero map and an alpha that jumps from 0 to 32768
an all-one map (R282 (a), (b); the source's fifth testable property). -/
def Obligations.StrkResult : Prop :=
  ∀ (sa sb sc : Slot) (s : State), sa.toNat < 1 → sb.toNat < 4 → sc.toNat < 4 →
    s.mem.AllPixels sb Pixel.Range4 → s.mem.AllPixels sc Pixel.Range4 →
    ∃ m, Machine.exec (.strk sa sb sc) s = .next { s with mem := m, status := s.status ||| 1#2 } ∧
      (∀ i, i < 4096 →
        (StrokeFlagged (s.mem.pixel16 sb i) (s.mem.pixel16 sc i) → m.sm sa i = 1) ∧
        (¬ StrokeFlagged (s.mem.pixel16 sb i) (s.mem.pixel16 sc i) → m.sm sa i = 0) ∧
        (s.mem.pixel16 sb i = s.mem.pixel16 sc i → m.sm sa i = 0) ∧
        ((s.mem.pixel16 sb i).a = 0 → (s.mem.pixel16 sc i).a = 32768 → m.sm sa i = 1)) ∧
      ∀ x, ¬ inSlot (.sm, sa) x → m.read x = s.mem.read x

/-! ### Data faults of the tile scans -/

/-- The first data fault of `CV16TO8`, `CV16TO8X`, `FLAT`, `UNFLAT` and `STRK` at pixel `k`
(60_exceptions.md R307, R310, R311): which check of which operand it is, the results of the pixels
before `k`, and every other byte as it was. -/
def Obligations.ScanFaultIsPrecise : Prop :=
  ∀ (sa sb sc : Slot) (s : State) (k : Nat) (f : FaultRec), sb.toNat < 4 → k < 4096 →
    (sa.toNat < 2 → noiseOk s.noise → (∀ j, j < k → (s.mem.pixel16 sb j).Premul) →
      (s.mem.pixel16 sb k).check .premul .b k = some f →
      ∃ m, Machine.exec (.cv16to8 sa sb) s =
          .next { s with mem := m, errCode := BitVec.ofNat 4 f.cause.code, errInfo := f.info,
                         status := s.status ||| 2#2 } ∧
        (∀ j, j < k → m.pixel8 sa j =
          storageResult (s.noise.getD (2 * j) 0).toNat (s.noise.getD (2 * j + 1) 0).toNat
            (s.mem.pixel16 sb j)) ∧
        ∀ x, ¬ (0x40000 + sa.toNat * 0x4000 ≤ x ∧ x < 0x40000 + sa.toNat * 0x4000 + 4 * k) →
          m.read x = s.mem.read x) ∧
    (sa.toNat < 2 → noiseOk s.noise → (∀ j, j < k → (s.mem.pixel16 sb j).Range3) →
      (s.mem.pixel16 sb k).check .range3 .b k = some f →
      ∃ m, Machine.exec (.cv16to8x sa sb) s =
          .next { s with mem := m, errCode := BitVec.ofNat 4 f.cause.code, errInfo := f.info,
                         status := s.status ||| 2#2 } ∧
        (∀ j, j < k → m.pixel8 sa j =
          displayResult (s.noise.getD j 0).toNat (s.mem.pixel16 sb j)) ∧
        ∀ x, ¬ (0x40000 + sa.toNat * 0x4000 ≤ x ∧ x < 0x40000 + sa.toNat * 0x4000 + 4 * k) →
          m.read x = s.mem.read x) ∧
    (sa.toNat < 4 →
      (∀ j, j < k → (s.mem.pixel16 sb j).Range3 ∧ (s.mem.pixel16 sa j).Premul) →
      ((s.mem.pixel16 sb k).check .range3 .b k = some f ∨
        (s.mem.pixel16 sb k).Range3 ∧ (s.mem.pixel16 sa k).check .premul .a k = some f) →
      ∃ m, Machine.exec (.flat sa sb) s =
          .next { s with mem := m, errCode := BitVec.ofNat 4 f.cause.code, errInfo := f.info,
                         status := s.status ||| 2#2 } ∧
        (∀ j, j < k → m.pixel16 sa j = flatResult (s.mem.pixel16 sb j) (s.mem.pixel16 sa j)) ∧
        ∀ x, (∀ j, j < k → ¬ inPixel16 sa j x) → m.read x = s.mem.read x) ∧
    (sa.toNat < 4 →
      (∀ j, j < k → (s.mem.pixel16 sb j).Range3 ∧ (s.mem.pixel16 sa j).Range4) →
      ((s.mem.pixel16 sb k).check .range3 .b k = some f ∨
        (s.mem.pixel16 sb k).Range3 ∧ (s.mem.pixel16 sa k).check .range4 .a k = some f) →
      ∃ m, Machine.exec (.unflat sa sb) s =
          .next { s with mem := m, errCode := BitVec.ofNat 4 f.cause.code, errInfo := f.info,
                         status := s.status ||| 2#2 } ∧
        (∀ j, j < k → m.pixel16 sa j = unflatResult (s.mem.pixel16 sb j) (s.mem.pixel16 sa j)) ∧
        ∀ x, (∀ j, j < k → ¬ inPixel16 sa j x) → m.read x = s.mem.read x) ∧
    (sa.toNat < 1 → sc.toNat < 4 →
      (∀ j, j < k → (s.mem.pixel16 sb j).Range4 ∧ (s.mem.pixel16 sc j).Range4) →
      ((s.mem.pixel16 sb k).check .range4 .b k = some f ∨
        (s.mem.pixel16 sb k).Range4 ∧ (s.mem.pixel16 sc k).check .range4 .c k = some f) →
      ∃ m, Machine.exec (.strk sa sb sc) s =
          .next { s with mem := m, errCode := BitVec.ofNat 4 f.cause.code, errInfo := f.info,
                         status := s.status ||| 2#2 } ∧
        (∀ j, j < k →
          (StrokeFlagged (s.mem.pixel16 sb j) (s.mem.pixel16 sc j) → m.sm sa j = 1) ∧
          (¬ StrokeFlagged (s.mem.pixel16 sb j) (s.mem.pixel16 sc j) → m.sm sa j = 0)) ∧
        ∀ x, ¬ (0x30000 + sa.toNat * 0x1000 ≤ x ∧ x < 0x30000 + sa.toNat * 0x1000 + k) →
          m.read x = s.mem.read x)
end

