-- ==== Sys2Proof/Laws/State.lean ====
section
/-! SUPPORT. One lemma per field per update of the state, true by `rfl`, so that no proof unfolds a
record update. -/

namespace Sys2Proof.Machine

open Sys2Proof

/-! ### `State.setDone` -/

@[simp] theorem State.setDone_status (s : State) :
    s.setDone.status = s.status ||| 1#2 := rfl
@[simp] theorem State.setDone_irqEn (s : State) :
    s.setDone.irqEn = s.irqEn := rfl
@[simp] theorem State.setDone_cmd (s : State) :
    s.setDone.cmd = s.cmd := rfl
@[simp] theorem State.setDone_errCode (s : State) :
    s.setDone.errCode = s.errCode := rfl
@[simp] theorem State.setDone_errInfo (s : State) :
    s.setDone.errInfo = s.errInfo := rfl
@[simp] theorem State.setDone_opacity (s : State) :
    s.setDone.opacity = s.opacity := rfl
@[simp] theorem State.setDone_colorR (s : State) :
    s.setDone.colorR = s.colorR := rfl
@[simp] theorem State.setDone_colorG (s : State) :
    s.setDone.colorG = s.colorG := rfl
@[simp] theorem State.setDone_colorB (s : State) :
    s.setDone.colorB = s.colorB := rfl
@[simp] theorem State.setDone_colorA (s : State) :
    s.setDone.colorA = s.colorA := rfl
@[simp] theorem State.setDone_dstX (s : State) :
    s.setDone.dstX = s.dstX := rfl
@[simp] theorem State.setDone_dstY (s : State) :
    s.setDone.dstY = s.dstY := rfl
@[simp] theorem State.setDone_accW (s : State) :
    s.setDone.accW = s.accW := rfl
@[simp] theorem State.setDone_accR (s : State) :
    s.setDone.accR = s.accR := rfl
@[simp] theorem State.setDone_accG (s : State) :
    s.setDone.accG = s.accG := rfl
@[simp] theorem State.setDone_accB (s : State) :
    s.setDone.accB = s.accB := rfl
@[simp] theorem State.setDone_accA (s : State) :
    s.setDone.accA = s.accA := rfl
@[simp] theorem State.setDone_mem (s : State) :
    s.setDone.mem = s.mem := rfl
@[simp] theorem State.setDone_noise (s : State) :
    s.setDone.noise = s.noise := rfl
@[simp] theorem State.setDone_inbox (s : State) :
    s.setDone.inbox = s.inbox := rfl
@[simp] theorem State.setDone_answer (s : State) :
    s.setDone.answer = s.answer := rfl

/-! ### `State.raise` -/

@[simp] theorem State.raise_status (s : State) (f : FaultRec) :
    (s.raise f).status = s.status ||| 2#2 := rfl
@[simp] theorem State.raise_irqEn (s : State) (f : FaultRec) :
    (s.raise f).irqEn = s.irqEn := rfl
@[simp] theorem State.raise_cmd (s : State) (f : FaultRec) :
    (s.raise f).cmd = s.cmd := rfl
@[simp] theorem State.raise_errCode (s : State) (f : FaultRec) :
    (s.raise f).errCode = BitVec.ofNat 4 f.cause.code := rfl
@[simp] theorem State.raise_errInfo (s : State) (f : FaultRec) :
    (s.raise f).errInfo = f.info := rfl
@[simp] theorem State.raise_opacity (s : State) (f : FaultRec) :
    (s.raise f).opacity = s.opacity := rfl
@[simp] theorem State.raise_colorR (s : State) (f : FaultRec) :
    (s.raise f).colorR = s.colorR := rfl
@[simp] theorem State.raise_colorG (s : State) (f : FaultRec) :
    (s.raise f).colorG = s.colorG := rfl
@[simp] theorem State.raise_colorB (s : State) (f : FaultRec) :
    (s.raise f).colorB = s.colorB := rfl
@[simp] theorem State.raise_colorA (s : State) (f : FaultRec) :
    (s.raise f).colorA = s.colorA := rfl
@[simp] theorem State.raise_dstX (s : State) (f : FaultRec) :
    (s.raise f).dstX = s.dstX := rfl
@[simp] theorem State.raise_dstY (s : State) (f : FaultRec) :
    (s.raise f).dstY = s.dstY := rfl
@[simp] theorem State.raise_accW (s : State) (f : FaultRec) :
    (s.raise f).accW = s.accW := rfl
@[simp] theorem State.raise_accR (s : State) (f : FaultRec) :
    (s.raise f).accR = s.accR := rfl
@[simp] theorem State.raise_accG (s : State) (f : FaultRec) :
    (s.raise f).accG = s.accG := rfl
@[simp] theorem State.raise_accB (s : State) (f : FaultRec) :
    (s.raise f).accB = s.accB := rfl
@[simp] theorem State.raise_accA (s : State) (f : FaultRec) :
    (s.raise f).accA = s.accA := rfl
@[simp] theorem State.raise_mem (s : State) (f : FaultRec) :
    (s.raise f).mem = s.mem := rfl
@[simp] theorem State.raise_noise (s : State) (f : FaultRec) :
    (s.raise f).noise = s.noise := rfl
@[simp] theorem State.raise_inbox (s : State) (f : FaultRec) :
    (s.raise f).inbox = s.inbox := rfl
@[simp] theorem State.raise_answer (s : State) (f : FaultRec) :
    (s.raise f).answer = s.answer := rfl

/-! ### `State.withMem` -/

@[simp] theorem State.withMem_status (s : State) (m : Memory) :
    (s.withMem m).status = s.status := rfl
@[simp] theorem State.withMem_irqEn (s : State) (m : Memory) :
    (s.withMem m).irqEn = s.irqEn := rfl
@[simp] theorem State.withMem_cmd (s : State) (m : Memory) :
    (s.withMem m).cmd = s.cmd := rfl
@[simp] theorem State.withMem_errCode (s : State) (m : Memory) :
    (s.withMem m).errCode = s.errCode := rfl
@[simp] theorem State.withMem_errInfo (s : State) (m : Memory) :
    (s.withMem m).errInfo = s.errInfo := rfl
@[simp] theorem State.withMem_opacity (s : State) (m : Memory) :
    (s.withMem m).opacity = s.opacity := rfl
@[simp] theorem State.withMem_colorR (s : State) (m : Memory) :
    (s.withMem m).colorR = s.colorR := rfl
@[simp] theorem State.withMem_colorG (s : State) (m : Memory) :
    (s.withMem m).colorG = s.colorG := rfl
@[simp] theorem State.withMem_colorB (s : State) (m : Memory) :
    (s.withMem m).colorB = s.colorB := rfl
@[simp] theorem State.withMem_colorA (s : State) (m : Memory) :
    (s.withMem m).colorA = s.colorA := rfl
@[simp] theorem State.withMem_dstX (s : State) (m : Memory) :
    (s.withMem m).dstX = s.dstX := rfl
@[simp] theorem State.withMem_dstY (s : State) (m : Memory) :
    (s.withMem m).dstY = s.dstY := rfl
@[simp] theorem State.withMem_accW (s : State) (m : Memory) :
    (s.withMem m).accW = s.accW := rfl
@[simp] theorem State.withMem_accR (s : State) (m : Memory) :
    (s.withMem m).accR = s.accR := rfl
@[simp] theorem State.withMem_accG (s : State) (m : Memory) :
    (s.withMem m).accG = s.accG := rfl
@[simp] theorem State.withMem_accB (s : State) (m : Memory) :
    (s.withMem m).accB = s.accB := rfl
@[simp] theorem State.withMem_accA (s : State) (m : Memory) :
    (s.withMem m).accA = s.accA := rfl
@[simp] theorem State.withMem_mem (s : State) (m : Memory) :
    (s.withMem m).mem = m := rfl
@[simp] theorem State.withMem_noise (s : State) (m : Memory) :
    (s.withMem m).noise = s.noise := rfl
@[simp] theorem State.withMem_inbox (s : State) (m : Memory) :
    (s.withMem m).inbox = s.inbox := rfl
@[simp] theorem State.withMem_answer (s : State) (m : Memory) :
    (s.withMem m).answer = s.answer := rfl

/-! ### `State.commit` -/

@[simp] theorem State.commit_status (s : State) (x : Sums) :
    (s.commit x).status = s.status := rfl
@[simp] theorem State.commit_irqEn (s : State) (x : Sums) :
    (s.commit x).irqEn = s.irqEn := rfl
@[simp] theorem State.commit_cmd (s : State) (x : Sums) :
    (s.commit x).cmd = s.cmd := rfl
@[simp] theorem State.commit_errCode (s : State) (x : Sums) :
    (s.commit x).errCode = s.errCode := rfl
@[simp] theorem State.commit_errInfo (s : State) (x : Sums) :
    (s.commit x).errInfo = s.errInfo := rfl
@[simp] theorem State.commit_opacity (s : State) (x : Sums) :
    (s.commit x).opacity = s.opacity := rfl
@[simp] theorem State.commit_colorR (s : State) (x : Sums) :
    (s.commit x).colorR = s.colorR := rfl
@[simp] theorem State.commit_colorG (s : State) (x : Sums) :
    (s.commit x).colorG = s.colorG := rfl
@[simp] theorem State.commit_colorB (s : State) (x : Sums) :
    (s.commit x).colorB = s.colorB := rfl
@[simp] theorem State.commit_colorA (s : State) (x : Sums) :
    (s.commit x).colorA = s.colorA := rfl
@[simp] theorem State.commit_dstX (s : State) (x : Sums) :
    (s.commit x).dstX = s.dstX := rfl
@[simp] theorem State.commit_dstY (s : State) (x : Sums) :
    (s.commit x).dstY = s.dstY := rfl
@[simp] theorem State.commit_accW (s : State) (x : Sums) :
    (s.commit x).accW = s.accW + BitVec.ofNat 64 x.w := rfl
@[simp] theorem State.commit_accR (s : State) (x : Sums) :
    (s.commit x).accR = s.accR + BitVec.ofNat 64 x.r := rfl
@[simp] theorem State.commit_accG (s : State) (x : Sums) :
    (s.commit x).accG = s.accG + BitVec.ofNat 64 x.g := rfl
@[simp] theorem State.commit_accB (s : State) (x : Sums) :
    (s.commit x).accB = s.accB + BitVec.ofNat 64 x.b := rfl
@[simp] theorem State.commit_accA (s : State) (x : Sums) :
    (s.commit x).accA = s.accA + BitVec.ofNat 64 x.a := rfl
@[simp] theorem State.commit_mem (s : State) (x : Sums) :
    (s.commit x).mem = s.mem := rfl
@[simp] theorem State.commit_noise (s : State) (x : Sums) :
    (s.commit x).noise = s.noise := rfl
@[simp] theorem State.commit_inbox (s : State) (x : Sums) :
    (s.commit x).inbox = s.inbox := rfl
@[simp] theorem State.commit_answer (s : State) (x : Sums) :
    (s.commit x).answer = s.answer := rfl

/-! ### `State.writeStatus` -/

@[simp] theorem State.writeStatus_status (s : State) (v : Word) :
    (s.writeStatus v).status = s.status &&& ~~~(v.extractLsb' 0 2) := rfl
@[simp] theorem State.writeStatus_irqEn (s : State) (v : Word) :
    (s.writeStatus v).irqEn = s.irqEn := rfl
@[simp] theorem State.writeStatus_cmd (s : State) (v : Word) :
    (s.writeStatus v).cmd = s.cmd := rfl
@[simp] theorem State.writeStatus_errCode (s : State) (v : Word) :
    (s.writeStatus v).errCode = if v.getLsbD 1 then 0 else s.errCode := rfl
@[simp] theorem State.writeStatus_errInfo (s : State) (v : Word) :
    (s.writeStatus v).errInfo = if v.getLsbD 1 then 0 else s.errInfo := rfl
@[simp] theorem State.writeStatus_opacity (s : State) (v : Word) :
    (s.writeStatus v).opacity = s.opacity := rfl
@[simp] theorem State.writeStatus_colorR (s : State) (v : Word) :
    (s.writeStatus v).colorR = s.colorR := rfl
@[simp] theorem State.writeStatus_colorG (s : State) (v : Word) :
    (s.writeStatus v).colorG = s.colorG := rfl
@[simp] theorem State.writeStatus_colorB (s : State) (v : Word) :
    (s.writeStatus v).colorB = s.colorB := rfl
@[simp] theorem State.writeStatus_colorA (s : State) (v : Word) :
    (s.writeStatus v).colorA = s.colorA := rfl
@[simp] theorem State.writeStatus_dstX (s : State) (v : Word) :
    (s.writeStatus v).dstX = s.dstX := rfl
@[simp] theorem State.writeStatus_dstY (s : State) (v : Word) :
    (s.writeStatus v).dstY = s.dstY := rfl
@[simp] theorem State.writeStatus_accW (s : State) (v : Word) :
    (s.writeStatus v).accW = s.accW := rfl
@[simp] theorem State.writeStatus_accR (s : State) (v : Word) :
    (s.writeStatus v).accR = s.accR := rfl
@[simp] theorem State.writeStatus_accG (s : State) (v : Word) :
    (s.writeStatus v).accG = s.accG := rfl
@[simp] theorem State.writeStatus_accB (s : State) (v : Word) :
    (s.writeStatus v).accB = s.accB := rfl
@[simp] theorem State.writeStatus_accA (s : State) (v : Word) :
    (s.writeStatus v).accA = s.accA := rfl
@[simp] theorem State.writeStatus_mem (s : State) (v : Word) :
    (s.writeStatus v).mem = s.mem := rfl
@[simp] theorem State.writeStatus_noise (s : State) (v : Word) :
    (s.writeStatus v).noise = s.noise := rfl
@[simp] theorem State.writeStatus_inbox (s : State) (v : Word) :
    (s.writeStatus v).inbox = s.inbox := rfl
@[simp] theorem State.writeStatus_answer (s : State) (v : Word) :
    (s.writeStatus v).answer = s.answer := rfl

/-! ### `State.answered` -/

@[simp] theorem State.answered_status (s : State) (x : Answer) :
    (s.answered x).status = s.status := rfl
@[simp] theorem State.answered_irqEn (s : State) (x : Answer) :
    (s.answered x).irqEn = s.irqEn := rfl
@[simp] theorem State.answered_cmd (s : State) (x : Answer) :
    (s.answered x).cmd = s.cmd := rfl
@[simp] theorem State.answered_errCode (s : State) (x : Answer) :
    (s.answered x).errCode = s.errCode := rfl
@[simp] theorem State.answered_errInfo (s : State) (x : Answer) :
    (s.answered x).errInfo = s.errInfo := rfl
@[simp] theorem State.answered_opacity (s : State) (x : Answer) :
    (s.answered x).opacity = s.opacity := rfl
@[simp] theorem State.answered_colorR (s : State) (x : Answer) :
    (s.answered x).colorR = s.colorR := rfl
@[simp] theorem State.answered_colorG (s : State) (x : Answer) :
    (s.answered x).colorG = s.colorG := rfl
@[simp] theorem State.answered_colorB (s : State) (x : Answer) :
    (s.answered x).colorB = s.colorB := rfl
@[simp] theorem State.answered_colorA (s : State) (x : Answer) :
    (s.answered x).colorA = s.colorA := rfl
@[simp] theorem State.answered_dstX (s : State) (x : Answer) :
    (s.answered x).dstX = s.dstX := rfl
@[simp] theorem State.answered_dstY (s : State) (x : Answer) :
    (s.answered x).dstY = s.dstY := rfl
@[simp] theorem State.answered_accW (s : State) (x : Answer) :
    (s.answered x).accW = s.accW := rfl
@[simp] theorem State.answered_accR (s : State) (x : Answer) :
    (s.answered x).accR = s.accR := rfl
@[simp] theorem State.answered_accG (s : State) (x : Answer) :
    (s.answered x).accG = s.accG := rfl
@[simp] theorem State.answered_accB (s : State) (x : Answer) :
    (s.answered x).accB = s.accB := rfl
@[simp] theorem State.answered_accA (s : State) (x : Answer) :
    (s.answered x).accA = s.accA := rfl
@[simp] theorem State.answered_mem (s : State) (x : Answer) :
    (s.answered x).mem = s.mem := rfl
@[simp] theorem State.answered_noise (s : State) (x : Answer) :
    (s.answered x).noise = s.noise := rfl
@[simp] theorem State.answered_inbox (s : State) (x : Answer) :
    (s.answered x).inbox = s.inbox := rfl
@[simp] theorem State.answered_answer (s : State) (x : Answer) :
    (s.answered x).answer = x := rfl

/-! ### `State.pop` -/

@[simp] theorem State.pop_status (s : State) :
    s.pop.status = s.status := rfl
@[simp] theorem State.pop_irqEn (s : State) :
    s.pop.irqEn = s.irqEn := rfl
@[simp] theorem State.pop_cmd (s : State) :
    s.pop.cmd = s.cmd := rfl
@[simp] theorem State.pop_errCode (s : State) :
    s.pop.errCode = s.errCode := rfl
@[simp] theorem State.pop_errInfo (s : State) :
    s.pop.errInfo = s.errInfo := rfl
@[simp] theorem State.pop_opacity (s : State) :
    s.pop.opacity = s.opacity := rfl
@[simp] theorem State.pop_colorR (s : State) :
    s.pop.colorR = s.colorR := rfl
@[simp] theorem State.pop_colorG (s : State) :
    s.pop.colorG = s.colorG := rfl
@[simp] theorem State.pop_colorB (s : State) :
    s.pop.colorB = s.colorB := rfl
@[simp] theorem State.pop_colorA (s : State) :
    s.pop.colorA = s.colorA := rfl
@[simp] theorem State.pop_dstX (s : State) :
    s.pop.dstX = s.dstX := rfl
@[simp] theorem State.pop_dstY (s : State) :
    s.pop.dstY = s.dstY := rfl
@[simp] theorem State.pop_accW (s : State) :
    s.pop.accW = s.accW := rfl
@[simp] theorem State.pop_accR (s : State) :
    s.pop.accR = s.accR := rfl
@[simp] theorem State.pop_accG (s : State) :
    s.pop.accG = s.accG := rfl
@[simp] theorem State.pop_accB (s : State) :
    s.pop.accB = s.accB := rfl
@[simp] theorem State.pop_accA (s : State) :
    s.pop.accA = s.accA := rfl
@[simp] theorem State.pop_mem (s : State) :
    s.pop.mem = s.mem := rfl
@[simp] theorem State.pop_noise (s : State) :
    s.pop.noise = s.noise := rfl
@[simp] theorem State.pop_inbox (s : State) :
    s.pop.inbox = s.inbox.tail := rfl
@[simp] theorem State.pop_answer (s : State) :
    s.pop.answer = s.answer := rfl

/-! ### `State.afterReset` -/

@[simp] theorem State.afterReset_status (z : List Half) (m : Memory) (q : List HostEvent) :
    (State.afterReset z m q).status = 0 := rfl
@[simp] theorem State.afterReset_irqEn (z : List Half) (m : Memory) (q : List HostEvent) :
    (State.afterReset z m q).irqEn = 0 := rfl
@[simp] theorem State.afterReset_cmd (z : List Half) (m : Memory) (q : List HostEvent) :
    (State.afterReset z m q).cmd = 0 := rfl
@[simp] theorem State.afterReset_errCode (z : List Half) (m : Memory) (q : List HostEvent) :
    (State.afterReset z m q).errCode = 0 := rfl
@[simp] theorem State.afterReset_errInfo (z : List Half) (m : Memory) (q : List HostEvent) :
    (State.afterReset z m q).errInfo = 0 := rfl
@[simp] theorem State.afterReset_opacity (z : List Half) (m : Memory) (q : List HostEvent) :
    (State.afterReset z m q).opacity = 0 := rfl
@[simp] theorem State.afterReset_colorR (z : List Half) (m : Memory) (q : List HostEvent) :
    (State.afterReset z m q).colorR = 0 := rfl
@[simp] theorem State.afterReset_colorG (z : List Half) (m : Memory) (q : List HostEvent) :
    (State.afterReset z m q).colorG = 0 := rfl
@[simp] theorem State.afterReset_colorB (z : List Half) (m : Memory) (q : List HostEvent) :
    (State.afterReset z m q).colorB = 0 := rfl
@[simp] theorem State.afterReset_colorA (z : List Half) (m : Memory) (q : List HostEvent) :
    (State.afterReset z m q).colorA = 0 := rfl
@[simp] theorem State.afterReset_dstX (z : List Half) (m : Memory) (q : List HostEvent) :
    (State.afterReset z m q).dstX = 0 := rfl
@[simp] theorem State.afterReset_dstY (z : List Half) (m : Memory) (q : List HostEvent) :
    (State.afterReset z m q).dstY = 0 := rfl
@[simp] theorem State.afterReset_accW (z : List Half) (m : Memory) (q : List HostEvent) :
    (State.afterReset z m q).accW = 0 := rfl
@[simp] theorem State.afterReset_accR (z : List Half) (m : Memory) (q : List HostEvent) :
    (State.afterReset z m q).accR = 0 := rfl
@[simp] theorem State.afterReset_accG (z : List Half) (m : Memory) (q : List HostEvent) :
    (State.afterReset z m q).accG = 0 := rfl
@[simp] theorem State.afterReset_accB (z : List Half) (m : Memory) (q : List HostEvent) :
    (State.afterReset z m q).accB = 0 := rfl
@[simp] theorem State.afterReset_accA (z : List Half) (m : Memory) (q : List HostEvent) :
    (State.afterReset z m q).accA = 0 := rfl
@[simp] theorem State.afterReset_mem (z : List Half) (m : Memory) (q : List HostEvent) :
    (State.afterReset z m q).mem = m := rfl
@[simp] theorem State.afterReset_noise (z : List Half) (m : Memory) (q : List HostEvent) :
    (State.afterReset z m q).noise = z := rfl
@[simp] theorem State.afterReset_inbox (z : List Half) (m : Memory) (q : List HostEvent) :
    (State.afterReset z m q).inbox = q := rfl
@[simp] theorem State.afterReset_answer (z : List Half) (m : Memory) (q : List HostEvent) :
    (State.afterReset z m q).answer = .none := rfl

end Sys2Proof.Machine
end

