-- ==== Sys2Proof/Laws/Memory.lean ====
section
/-! SUPPORT. The laws of the byte memory: what a read gives after a write, and that every operation
keeps the canonical form and the map. -/

namespace Sys2Proof.Machine

open Sys2Proof

/-! ### Read after write -/

theorem Memory.read_nil (a : Nat) : Memory.read [] a = 0#8 := rfl

theorem Memory.read_insert (m : Memory) (a : Nat) (b : Byte) (x : Nat) :
    (m.insert a b).read x = if x = a then b else m.read x := by
  induction m with
  | nil => simp only [Memory.insert, Memory.read, eq_comm]
  | cons c rest ih =>
    by_cases h1 : a < c.1
    · simp only [Memory.insert, h1, if_true, Memory.read, eq_comm (a := x)]
    · by_cases h2 : a = c.1
      · subst h2
        by_cases h3 : x = c.1
        · subst h3; simp [Memory.insert, Memory.read]
        · simp [Memory.insert, Memory.read, h3, Ne.symm h3]
      · by_cases h3 : x = a
        · subst h3; simp [Memory.insert, Memory.read, h1, h2, Ne.symm h2, ih]
        · simp [Memory.insert, Memory.read, h1, h2, h3, ih]

theorem Memory.read_erase (m : Memory) (a x : Nat) :
    (m.erase a).read x = if x = a then 0#8 else m.read x := by
  induction m with
  | nil => simp [Memory.erase, Memory.read, Config.unwritten]
  | cons c rest ih =>
    rw [Memory.erase] at ih ⊢
    by_cases h : c.1 = a
    · rw [List.filter_cons_of_neg (by simpa using h), ih, Memory.read]
      by_cases hx : x = a
      · rw [if_pos hx, if_pos hx]
      · rw [if_neg hx, if_neg hx, if_neg (by omega)]
    · rw [List.filter_cons_of_pos (by simpa using h), Memory.read, ih, Memory.read]
      by_cases hc : c.1 = x
      · rw [if_pos hc, if_pos hc, if_neg (by omega)]
      · rw [if_neg hc, if_neg hc]

/-- The one law of reads and writes: it holds of every list, canonical or not. -/
theorem Memory.read_write (m : Memory) (a : Nat) (b : Byte) (x : Nat) :
    (m.write a b).read x = if x = a then b else m.read x := by
  unfold Memory.write
  split
  · rename_i h
    rw [Memory.read_erase, h]
    rfl
  · exact Memory.read_insert m a b x

theorem Memory.read_write_same (m : Memory) (a : Nat) (b : Byte) : (m.write a b).read a = b := by
  rw [Memory.read_write, if_pos rfl]

theorem Memory.read_write_other (m : Memory) {a x : Nat} (b : Byte) (h : x ≠ a) :
    (m.write a b).read x = m.read x := by
  rw [Memory.read_write, if_neg h]

theorem Memory.read8_write8 (m : Memory) (a v x : Nat) :
    (m.write8 a v).read8 x = if x = a then v % 256 else m.read8 x := by
  unfold Memory.read8 Memory.write8
  rw [Memory.read_write]
  split <;> simp

theorem Memory.read8_lt (m : Memory) (a : Nat) : m.read8 a < 256 := (m.read a).isLt

theorem Memory.read16_lt (m : Memory) (a : Nat) : m.read16 a < 65536 := by
  have := m.read8_lt a
  have := m.read8_lt (a + 1)
  unfold Memory.read16
  omega

/-- A 16-bit cell reads back what was written, at any address. -/
theorem Memory.read16_write16_same (m : Memory) (a v : Nat) (h : v < 65536) :
    (m.write16 a v).read16 a = v := by
  unfold Memory.read16 Memory.write16
  simp only [Memory.read8_write8, if_true, if_neg (show ¬ a = a + 1 by omega)]
  omega

theorem Memory.read8_write16_other (m : Memory) (a v x : Nat) (h0 : x ≠ a) (h1 : x ≠ a + 1) :
    (m.write16 a v).read8 x = m.read8 x := by
  unfold Memory.write16
  simp only [Memory.read8_write8, if_neg h0, if_neg h1]

theorem Memory.read_write16_other (m : Memory) (a v x : Nat) (h0 : x ≠ a) (h1 : x ≠ a + 1) :
    (m.write16 a v).read x = m.read x := by
  unfold Memory.write16 Memory.write8
  rw [Memory.read_write_other _ _ h1, Memory.read_write_other _ _ h0]

/-- Two cells that do not overlap do not disturb each other. -/
theorem Memory.read16_write16_other (m : Memory) (a v x : Nat) (h : x + 1 < a ∨ a + 1 < x) :
    (m.write16 a v).read16 x = m.read16 x := by
  unfold Memory.read16
  rw [Memory.read8_write16_other _ _ _ _ (by omega) (by omega),
    Memory.read8_write16_other _ _ _ _ (by omega) (by omega)]

/-- `MemWrite(addr, n, v)` (20_memory.md R66): the bytes stored, and every other byte as before. -/
theorem Memory.read8_writeBytes (n : Nat) : ∀ (m : Memory) (a v x : Nat),
    (m.writeBytes a n v).read8 x =
      if a ≤ x ∧ x < a + n then v / 256 ^ (x - a) % 256 else m.read8 x := by
  induction n with
  | zero => intro m a v x; rw [if_neg (by omega)]; rfl
  | succ n ih =>
    intro m a v x
    rw [Memory.writeBytes, ih, Memory.read8_write8]
    by_cases h1 : x = a
    · subst h1
      rw [if_neg (by omega), if_pos rfl, if_pos (by omega), Nat.sub_self, Nat.pow_zero, Nat.div_one]
    · by_cases h2 : a + 1 ≤ x ∧ x < a + 1 + n
      · rw [if_pos h2, if_pos (by omega), show x - a = (x - (a + 1)) + 1 by omega, Nat.pow_succ',
          Nat.div_div_eq_div_mul]
      · rw [if_neg h2, if_neg h1, if_neg (by omega)]

theorem Memory.read_writeBytes_other (n : Nat) : ∀ (m : Memory) (a v x : Nat),
    ¬ (a ≤ x ∧ x < a + n) → (m.writeBytes a n v).read x = m.read x := by
  induction n with
  | zero => intro m a v x _; rfl
  | succ n ih =>
    intro m a v x h
    rw [Memory.writeBytes, ih _ _ _ _ (by omega), Memory.write8,
      Memory.read_write_other _ _ (by omega)]

/-! ### The canonical form -/

theorem Memory.wf_cons (c : Host.Cell) (rest : Memory) :
    Memory.wf (c :: rest) = true ↔
      c.2 ≠ 0#8 ∧ (∀ d ∈ rest, c.1 < d.1) ∧ rest.wf = true := by
  rw [Memory.wf, Config.unwritten, Bool.and_eq_true, Bool.and_eq_true, decide_eq_true_iff, List.all_eq_true, and_assoc]
  simp only [decide_eq_true_iff]

theorem Memory.mem_insert (m : Memory) (a : Nat) (b : Byte) (d : Host.Cell)
    (h : d ∈ m.insert a b) : d = (a, b) ∨ d ∈ m := by
  induction m with
  | nil => simpa [Memory.insert] using h
  | cons c rest ih =>
    unfold Memory.insert at h
    split at h
    · simpa using h
    · split at h
      · rcases List.mem_cons.mp h with h | h
        · exact .inl h
        · exact .inr (List.mem_cons_of_mem _ h)
      · rcases List.mem_cons.mp h with h | h
        · exact .inr (h ▸ List.mem_cons_self)
        · rcases ih h with h | h
          · exact .inl h
          · exact .inr (List.mem_cons_of_mem _ h)

theorem Memory.mem_write (m : Memory) (a : Nat) (b : Byte) (d : Host.Cell)
    (h : d ∈ m.write a b) : d = (a, b) ∨ d ∈ m := by
  unfold Memory.write at h
  split at h
  · exact .inr (List.mem_of_mem_filter h)
  · exact Memory.mem_insert m a b d h

theorem Memory.wf_insert (m : Memory) (a : Nat) (b : Byte) (hb : b ≠ 0#8) (h : m.wf = true) :
    (m.insert a b).wf = true := by
  induction m with
  | nil => exact (Memory.wf_cons _ _).mpr ⟨hb, by simp, rfl⟩
  | cons c rest ih =>
    obtain ⟨hc, hlt, hr⟩ := (Memory.wf_cons _ _).mp h
    unfold Memory.insert
    split
    · rename_i h1
      refine (Memory.wf_cons _ _).mpr ⟨hb, ?_, h⟩
      intro d hd
      rcases List.mem_cons.mp hd with rfl | hd
      · exact h1
      · exact Nat.lt_trans h1 (hlt d hd)
    · split
      · rename_i h2
        exact (Memory.wf_cons _ _).mpr ⟨hb, by simpa [h2] using hlt, hr⟩
      · rename_i h1 h2
        refine (Memory.wf_cons _ _).mpr ⟨hc, ?_, ih hr⟩
        intro d hd
        rcases Memory.mem_insert _ _ _ _ hd with rfl | hd
        · have : c.1 ≠ a := fun e => h2 e.symm
          show c.1 < a
          omega
        · exact hlt d hd

theorem Memory.wf_erase (m : Memory) (a : Nat) (h : m.wf = true) : (m.erase a).wf = true := by
  induction m with
  | nil => rfl
  | cons c rest ih =>
    obtain ⟨hc, hlt, hr⟩ := (Memory.wf_cons _ _).mp h
    have ih' := ih hr
    unfold Memory.erase at ih' ⊢
    rw [List.filter_cons]
    split
    · exact (Memory.wf_cons _ _).mpr ⟨hc, fun d hd => hlt d (List.mem_of_mem_filter hd), ih'⟩
    · exact ih'

/-- Every store keeps the canonical form. -/
theorem Memory.wf_write (m : Memory) (a : Nat) (b : Byte) (h : m.wf = true) :
    (m.write a b).wf = true := by
  unfold Memory.write
  split
  · exact Memory.wf_erase m a h
  · exact Memory.wf_insert m a b (by assumption) h

/-- A canonical memory whose cells all lie in the writable memories. -/
def Memory.Mapped (m : Memory) : Prop := m.wf = true ∧ ∀ c ∈ m, inWritable c.1 = true

theorem Memory.Mapped.write {m : Memory} (h : m.Mapped) (a : Nat) (b : Byte)
    (ha : inWritable a = true) : (m.write a b).Mapped := by
  refine ⟨Memory.wf_write m a b h.1, fun c hc => ?_⟩
  rcases Memory.mem_write _ _ _ _ hc with rfl | hc
  · exact ha
  · exact h.2 c hc

theorem Memory.Mapped.write8 {m : Memory} (h : m.Mapped) (a v : Nat)
    (ha : inWritable a = true) : (m.write8 a v).Mapped := h.write a _ ha

theorem Memory.Mapped.write16 {m : Memory} (h : m.Mapped) (a v : Nat)
    (h0 : inWritable a = true) (h1 : inWritable (a + 1) = true) : (m.write16 a v).Mapped :=
  (h.write8 a _ h0).write8 (a + 1) _ h1

theorem Memory.Mapped.writeBytes (n : Nat) : ∀ {m : Memory}, m.Mapped → ∀ a v : Nat,
    (∀ j, j < n → inWritable (a + j) = true) → (m.writeBytes a n v).Mapped := by
  induction n with
  | zero => intro m h _ _ _; exact h
  | succ n ih =>
    intro m h a v hw
    refine ih (h.write8 a v (hw 0 (by omega))) _ _ fun j hj => ?_
    rw [show a + 1 + j = a + (j + 1) by omega]
    exact hw (j + 1) (by omega)

theorem Memory.Mapped.ofCells (cells : List Host.Cell) : (Memory.ofCells cells).Mapped := by
  induction cells with
  | nil => exact ⟨rfl, by simp [Memory.ofCells]⟩
  | cons c rest ih =>
    unfold Memory.ofCells
    split
    · exact ih.write _ _ (by assumption)
    · exact ih

/-- Two canonical memories that read alike everywhere are the same list. -/
theorem Memory.eq_of_read : ∀ m n : Memory, m.wf = true → n.wf = true →
    (∀ a, m.read a = n.read a) → m = n := by
  intro m
  have above : ∀ (k : Memory) (a : Nat), (∀ d ∈ k, a < d.1) → k.read a = 0#8 := by
    intro k a
    induction k with
    | nil => intro _; rfl
    | cons c rest ih =>
      intro h
      have hc := h c List.mem_cons_self
      rw [Memory.read, if_neg (by omega)]
      exact ih fun d hd => h d (List.mem_cons_of_mem _ hd)
  induction m with
  | nil =>
    intro n _ hn h
    cases n with
    | nil => rfl
    | cons d rest =>
      have := h d.1
      rw [Memory.read_nil, Memory.read, if_pos rfl] at this
      exact absurd this.symm ((Memory.wf_cons _ _).mp hn).1
  | cons c rest ih =>
    intro n hm hn h
    obtain ⟨hc, hlt, hr⟩ := (Memory.wf_cons _ _).mp hm
    cases n with
    | nil =>
      have := h c.1
      rw [Memory.read_nil, Memory.read, if_pos rfl] at this
      exact absurd this hc
    | cons d rest' =>
      obtain ⟨hd, hlt', hr'⟩ := (Memory.wf_cons _ _).mp hn
      have hcd : c.1 = d.1 := by
        rcases Nat.lt_trichotomy c.1 d.1 with hl | he | hg
        · have h1 := h c.1
          rw [Memory.read, if_pos rfl, Memory.read, if_neg (by omega),
            above rest' c.1 fun e he => Nat.lt_trans hl (hlt' e he)] at h1
          exact absurd h1 hc
        · exact he
        · have h1 := h d.1
          rw [Memory.read, if_neg (by omega), Memory.read, if_pos rfl,
            above rest d.1 fun e he => Nat.lt_trans hg (hlt e he)] at h1
          exact absurd h1.symm hd
      have hv : c.2 = d.2 := by
        have h1 := h c.1
        rw [Memory.read, if_pos rfl, Memory.read, if_pos hcd.symm] at h1
        exact h1
      have hrest : rest = rest' := by
        refine ih rest' hr hr' fun a => ?_
        by_cases ha : c.1 = a
        · subst ha
          rw [above rest c.1 hlt, above rest' c.1 (by rw [hcd]; exact hlt')]
        · have h1 := h a
          rw [Memory.read, if_neg ha, Memory.read, if_neg (by omega)] at h1
          exact h1
      rw [hrest]
      exact congrArg (· :: rest') (Prod.ext hcd hv)

end Sys2Proof.Machine
end

