-- ==== Sys2Proof/Laws/Operands.lean ====
section
/-! SUPPORT. The laws of the operands: the addresses as numbers, what a pixel reads after a store,
and what an operand check answers. -/

namespace Sys2Proof.Machine

open Sys2Proof

/-! ### Addresses -/

theorem t16Addr_eq (s : Slot) (i ch : Nat) :
    t16Addr s i ch = 0x80000 + s.toNat * 32768 + 8 * i + 2 * ch := rfl

theorem t8Addr_eq (s : Slot) (i ch : Nat) :
    t8Addr s i ch = 0x40000 + s.toNat * 16384 + 4 * i + ch := rfl

theorem smAddr_eq (s : Slot) (i : Nat) : smAddr s i = 0x30000 + s.toNat * 4096 + i := rfl

theorem maskAddr_eq (m : Nat) : maskAddr m = 0x10000 + 2 * m := rfl

/-! ### Reads depend on the bytes of the pixel only -/

theorem Memory.read16_congr {m n : Memory} {a : Nat} (h0 : m.read a = n.read a)
    (h1 : m.read (a + 1) = n.read (a + 1)) : m.read16 a = n.read16 a := by
  unfold Memory.read16 Memory.read8
  rw [h0, h1]

theorem Memory.pixel16_congr {m n : Memory} {s : Slot} {i : Nat}
    (h : ∀ x, t16Addr s i 0 ≤ x → x < t16Addr s i 0 + 8 → m.read x = n.read x) :
    m.pixel16 s i = n.pixel16 s i := by
  simp only [t16Addr_eq] at h
  unfold Memory.pixel16 Memory.t16
  simp only [t16Addr_eq]
  rw [Memory.read16_congr (h _ (by omega) (by omega)) (h _ (by omega) (by omega)),
    Memory.read16_congr (h _ (by omega) (by omega)) (h _ (by omega) (by omega)),
    Memory.read16_congr (h _ (by omega) (by omega)) (h _ (by omega) (by omega)),
    Memory.read16_congr (h _ (by omega) (by omega)) (h _ (by omega) (by omega))]

theorem Memory.pixel8_congr {m n : Memory} {s : Slot} {i : Nat}
    (h : ∀ x, t8Addr s i 0 ≤ x → x < t8Addr s i 0 + 4 → m.read x = n.read x) :
    m.pixel8 s i = n.pixel8 s i := by
  simp only [t8Addr_eq] at h
  unfold Memory.pixel8 Memory.t8 Memory.read8
  simp only [t8Addr_eq]
  rw [h _ (by omega) (by omega), h _ (by omega) (by omega), h _ (by omega) (by omega),
    h _ (by omega) (by omega)]

theorem Memory.mask_congr {m n : Memory} (j : Nat)
    (h : ∀ x, inMask x → m.read x = n.read x) (hj : j < 8192) : m.mask j = n.mask j := by
  unfold Memory.mask
  refine Memory.read16_congr (h _ ?_) (h _ ?_) <;> rw [maskAddr_eq] <;> constructor <;> omega

/-! ### Stores -/

theorem Memory.read_setT16_other (m : Memory) (s : Slot) (i ch v x : Nat)
    (h : x < t16Addr s i ch ∨ t16Addr s i ch + 1 < x) : (m.setT16 s i ch v).read x = m.read x :=
  Memory.read_write16_other _ _ _ _ (by omega) (by omega)

/-- A colour store leaves every byte outside the three colour cells. -/
theorem Memory.read_setColour16_other (m : Memory) (s : Slot) (i : Nat) (c : Rgb) (x : Nat)
    (h : x < t16Addr s i 0 ∨ t16Addr s i 0 + 6 ≤ x) : (m.setColour16 s i c).read x = m.read x := by
  unfold Memory.setColour16
  rw [t16Addr_eq] at h
  rw [Memory.read_setT16_other _ _ _ _ _ _ (by rw [t16Addr_eq]; omega),
    Memory.read_setT16_other _ _ _ _ _ _ (by rw [t16Addr_eq]; omega),
    Memory.read_setT16_other _ _ _ _ _ _ (by rw [t16Addr_eq]; omega)]

/-- A pixel store leaves every byte outside the pixel. -/
theorem Memory.read_setPixel16_other (m : Memory) (s : Slot) (i : Nat) (p : Pixel) (x : Nat)
    (h : x < t16Addr s i 0 ∨ t16Addr s i 0 + 8 ≤ x) : (m.setPixel16 s i p).read x = m.read x := by
  unfold Memory.setPixel16
  rw [Memory.read_setT16_other _ _ _ _ _ _ (by rw [t16Addr_eq] at h ⊢; omega),
    Memory.read_setColour16_other _ _ _ _ _ (by omega)]

theorem Memory.read_setPixel8_other (m : Memory) (s : Slot) (i : Nat) (p : Pixel) (x : Nat)
    (h : x < t8Addr s i 0 ∨ t8Addr s i 0 + 4 ≤ x) : (m.setPixel8 s i p).read x = m.read x := by
  unfold Memory.setPixel8 Memory.setT8 Memory.write8
  rw [t8Addr_eq] at h
  simp only [t8Addr_eq]
  rw [Memory.read_write_other _ _ (by omega), Memory.read_write_other _ _ (by omega),
    Memory.read_write_other _ _ (by omega), Memory.read_write_other _ _ (by omega)]

theorem Memory.read_setSm_other (m : Memory) (s : Slot) (i v x : Nat) (h : x ≠ smAddr s i) :
    (m.setSm s i v).read x = m.read x := Memory.read_write_other _ _ h

theorem Memory.t16_setT16_same (m : Memory) (s : Slot) (i ch v : Nat) (h : v < 65536) :
    (m.setT16 s i ch v).t16 s i ch = v := Memory.read16_write16_same _ _ _ h

theorem Memory.t16_setT16_channel (m : Memory) (s : Slot) (i ch ch' v : Nat) (h : ch ≠ ch') :
    (m.setT16 s i ch v).t16 s i ch' = m.t16 s i ch' :=
  Memory.read16_write16_other _ _ _ _ (by rw [t16Addr_eq, t16Addr_eq]; omega)

/-- What a pixel reads after its colour cells were stored: the alpha cell is the old one. -/
theorem Memory.pixel16_setColour16 (m : Memory) (s : Slot) (i : Nat) (c : Rgb)
    (hr : c.r < 65536) (hg : c.g < 65536) (hb : c.b < 65536) :
    (m.setColour16 s i c).pixel16 s i = ⟨c.r, c.g, c.b, (m.pixel16 s i).a⟩ := by
  unfold Memory.pixel16 Memory.setColour16
  congr 1
  · rw [Memory.t16_setT16_channel _ _ _ _ _ _ (by decide),
      Memory.t16_setT16_channel _ _ _ _ _ _ (by decide), Memory.t16_setT16_same _ _ _ _ _ hr]
  · rw [Memory.t16_setT16_channel _ _ _ _ _ _ (by decide), Memory.t16_setT16_same _ _ _ _ _ hg]
  · rw [Memory.t16_setT16_same _ _ _ _ _ hb]
  · rw [Memory.t16_setT16_channel _ _ _ _ _ _ (by decide),
      Memory.t16_setT16_channel _ _ _ _ _ _ (by decide),
      Memory.t16_setT16_channel _ _ _ _ _ _ (by decide)]

/-- What a pixel reads after it was stored. -/
theorem Memory.pixel16_setPixel16 (m : Memory) (s : Slot) (i : Nat) (p : Pixel)
    (hr : p.r < 65536) (hg : p.g < 65536) (hb : p.b < 65536) (ha : p.a < 65536) :
    (m.setPixel16 s i p).pixel16 s i = p := by
  have h := Memory.pixel16_setColour16 m s i p.rgb hr hg hb
  unfold Memory.pixel16 at h
  unfold Memory.pixel16 Memory.setPixel16
  rw [Memory.t16_setT16_channel _ _ _ _ _ _ (by decide),
    Memory.t16_setT16_channel _ _ _ _ _ _ (by decide),
    Memory.t16_setT16_channel _ _ _ _ _ _ (by decide), Memory.t16_setT16_same _ _ _ _ _ ha]
  rw [Pixel.mk.injEq] at h
  rw [h.1, h.2.1, h.2.2.1]
  rfl

/-- What a storage pixel reads after it was stored. -/
theorem Memory.pixel8_setPixel8 (m : Memory) (s : Slot) (i : Nat) (p : Pixel)
    (hr : p.r < 256) (hg : p.g < 256) (hb : p.b < 256) (ha : p.a < 256) :
    (m.setPixel8 s i p).pixel8 s i = p := by
  unfold Memory.pixel8 Memory.setPixel8 Memory.setT8 Memory.t8
  simp only [Memory.read8_write8, t8Addr_eq]
  simp only [Nat.add_left_cancel_iff, Nat.reduceEqDiff, if_true, if_false,
    Nat.mod_eq_of_lt hr, Nat.mod_eq_of_lt hg, Nat.mod_eq_of_lt hb, Nat.mod_eq_of_lt ha]

theorem Memory.sm_setSm (m : Memory) (s : Slot) (i v : Nat) (h : v < 256) :
    (m.setSm s i v).sm s i = v := by
  unfold Memory.sm Memory.setSm
  rw [Memory.read8_write8, if_pos rfl, Nat.mod_eq_of_lt h]

/-! ### Stores keep the memory canonical and inside the map -/

theorem inRange_iff (base n a : Nat) : inRange base n a = true ↔ base ≤ a ∧ a < base + n := by
  rw [inRange, Bool.and_eq_true, decide_eq_true_iff, decide_eq_true_iff]

/-- The writable memories as numbers (20_memory.md R62). -/
theorem inWritable_iff (a : Nat) : inWritable a = true ↔
    (0x10000 ≤ a ∧ a < 0x14000) ∨ (0x30000 ≤ a ∧ a < 0x31000) ∨ (0x40000 ≤ a ∧ a < 0x48000) ∨
      (0x80000 ≤ a ∧ a < 0xA0000) := by
  rw [inWritable, Bool.or_eq_true, Bool.or_eq_true, Bool.or_eq_true, inRange_iff, inRange_iff,
    inRange_iff, inRange_iff, or_assoc, or_assoc]
  rfl

/-- The noise ROM as numbers (20_memory.md R62). -/
theorem inNoise_iff (a : Nat) : inNoise a = true ↔ 0x20000 ≤ a ∧ a < 0x24000 :=
  inRange_iff _ _ _

theorem inWritable_t16 (s : Slot) (hs : s.toNat < 4) (x : Nat) (h0 : 0x80000 + s.toNat * 32768 ≤ x)
    (h1 : x < 0x80000 + s.toNat * 32768 + 32768) : inWritable x = true :=
  (inWritable_iff x).mpr (by omega)

theorem inWritable_t8 (s : Slot) (hs : s.toNat < 2) (x : Nat) (h0 : 0x40000 + s.toNat * 16384 ≤ x)
    (h1 : x < 0x40000 + s.toNat * 16384 + 16384) : inWritable x = true :=
  (inWritable_iff x).mpr (by omega)

theorem inWritable_sm (s : Slot) (hs : s.toNat < 1) (x : Nat) (h0 : 0x30000 + s.toNat * 4096 ≤ x)
    (h1 : x < 0x30000 + s.toNat * 4096 + 4096) : inWritable x = true :=
  (inWritable_iff x).mpr (by omega)

theorem Memory.Mapped.setT16 {m : Memory} (h : m.Mapped) (s : Slot) (hs : s.toNat < 4)
    (i ch v : Nat) (hi : i < 4096) (hc : ch < 4) : (m.setT16 s i ch v).Mapped :=
  h.write16 _ _ (inWritable_t16 s hs _ (by rw [t16Addr_eq]; omega) (by rw [t16Addr_eq]; omega))
    (inWritable_t16 s hs _ (by rw [t16Addr_eq]; omega) (by rw [t16Addr_eq]; omega))

theorem Memory.Mapped.setColour16 {m : Memory} (h : m.Mapped) (s : Slot) (hs : s.toNat < 4)
    (i : Nat) (hi : i < 4096) (c : Rgb) : (m.setColour16 s i c).Mapped :=
  ((h.setT16 s hs i 0 _ hi (by decide)).setT16 s hs i 1 _ hi (by decide)).setT16 s hs i 2 _ hi
    (by decide)

theorem Memory.Mapped.setPixel16 {m : Memory} (h : m.Mapped) (s : Slot) (hs : s.toNat < 4)
    (i : Nat) (hi : i < 4096) (p : Pixel) : (m.setPixel16 s i p).Mapped :=
  (h.setColour16 s hs i hi _).setT16 s hs i 3 _ hi (by decide)

theorem Memory.Mapped.setPixel8 {m : Memory} (h : m.Mapped) (s : Slot) (hs : s.toNat < 2)
    (i : Nat) (hi : i < 4096) (p : Pixel) : (m.setPixel8 s i p).Mapped := by
  have w : ∀ ch, ch < 4 → inWritable (t8Addr s i ch) = true := fun ch hc =>
    inWritable_t8 s hs _ (by rw [t8Addr_eq]; omega) (by rw [t8Addr_eq]; omega)
  exact (((h.write8 _ _ (w 0 (by decide))).write8 _ _ (w 1 (by decide))).write8 _ _
    (w 2 (by decide))).write8 _ _ (w 3 (by decide))

theorem Memory.Mapped.setSm {m : Memory} (h : m.Mapped) (s : Slot) (hs : s.toNat < 1)
    (i v : Nat) (hi : i < 4096) : (m.setSm s i v).Mapped :=
  h.write8 _ _ (inWritable_sm s hs _ (by rw [smAddr_eq]; omega) (by rw [smAddr_eq]; omega))

/-! ### Cells and operands are small -/

theorem Memory.t16_lt (m : Memory) (s : Slot) (i ch : Nat) : m.t16 s i ch < 65536 :=
  m.read16_lt _

theorem Memory.t8_lt (m : Memory) (s : Slot) (i ch : Nat) : m.t8 s i ch < 256 := m.read8_lt _

/-! ### Checks -/

theorem firstAbove_eq_none (limit : Nat) (l : List Nat) :
    firstAbove limit l = none ↔ ∀ v ∈ l, v ≤ limit := by
  induction l with
  | nil => simp [firstAbove]
  | cons v rest ih =>
    by_cases h : v > limit
    · simp only [firstAbove, h, if_true, reduceCtorEq, List.mem_cons, false_iff]
      intro h'
      exact absurd (h' v (.inl rfl)) (by omega)
    · simp [firstAbove, h, ih, Nat.le_of_not_lt h]

/-- The level's condition on a pixel (60_exceptions.md R310). -/
def Level.holds : Level → Pixel → Prop
  | .range3, p => p.Range3
  | .range4, p => p.Range4
  | .premul, p => p.Premul

/-- A check passes exactly when the level's condition holds (R310). -/
theorem Pixel.check_eq_none (p : Pixel) (l : Level) (o : Operand) (i : Nat) :
    p.check l o i = none ↔ l.holds p := by
  cases l with
  | range3 =>
    have h := firstAbove_eq_none Config.one [p.r, p.g, p.b]
    simp only [List.forall_mem_cons, List.not_mem_nil, IsEmpty.forall_iff, implies_true,
      and_true] at h
    show _ ↔ p.Range3
    unfold Pixel.check Pixel.rangeFault Pixel.premulFault Pixel.Range3
    cases hf : firstAbove Config.one [p.r, p.g, p.b] with
    | none => simpa [Config.one] using h.mp hf
    | some c =>
      simp only [reduceCtorEq, false_iff]
      intro h'
      rw [h.mpr h'] at hf
      cases hf
  | range4 =>
    have h := firstAbove_eq_none Config.one [p.r, p.g, p.b, p.a]
    simp only [List.forall_mem_cons, List.not_mem_nil, IsEmpty.forall_iff, implies_true,
      and_true] at h
    show _ ↔ p.Range4
    unfold Pixel.check Pixel.rangeFault Pixel.premulFault Pixel.Range4
    cases hf : firstAbove Config.one [p.r, p.g, p.b, p.a] with
    | none => simpa [Config.one] using h.mp hf
    | some c =>
      simp only [reduceCtorEq, false_iff]
      intro h'
      rw [h.mpr h'] at hf
      cases hf
  | premul =>
    have h := firstAbove_eq_none Config.one [p.r, p.g, p.b, p.a]
    have h2 := firstAbove_eq_none p.a [p.r, p.g, p.b]
    simp only [List.forall_mem_cons, List.not_mem_nil, IsEmpty.forall_iff, implies_true,
      and_true] at h h2
    show _ ↔ p.Premul
    unfold Pixel.check Pixel.rangeFault Pixel.premulFault Pixel.Premul
    have e : Config.one = 32768 := rfl
    cases hf : firstAbove Config.one [p.r, p.g, p.b, p.a] with
    | some c =>
      simp only [reduceCtorEq, false_iff]
      intro h'
      rw [h.mpr (by omega)] at hf
      cases hf
    | none =>
      have h1 := h.mp hf
      cases hg : firstAbove p.a [p.r, p.g, p.b] with
      | some c =>
        simp only [reduceCtorEq, false_iff]
        intro h'
        rw [h2.mpr (by omega)] at hg
        cases hg
      | none =>
        have h3 := h2.mp hg
        simp only [true_iff]
        omega

/-- A check's fault is `PIX_RANGE` or `PIX_PREMUL`, at the pixel and operand asked for. -/
theorem Pixel.check_fault {p : Pixel} {l : Level} {o : Operand} {i : Nat} {f : FaultRec}
    (h : p.check l o i = some f) :
    (f.cause = .pixRange ∨ f.cause = .pixPremul) ∧ f.idx = i ∧ f.opnd = o.code := by
  unfold Pixel.check at h
  split at h
  · injection h with h; subst h; exact ⟨.inl rfl, rfl, rfl⟩
  · split at h
    · injection h with h; subst h; exact ⟨.inr rfl, rfl, rfl⟩
    · cases h

theorem slotLegal_iff (f : MemKind × Slot) : slotLegal f = true ↔ f.2.toNat < f.1.slots := by
  rw [slotLegal, decide_eq_true_iff]

theorem badSlotFrom_eq_none (n : Nat) (l : List (MemKind × Slot)) :
    badSlotFrom n l = none ↔ l.all slotLegal = true := by
  induction l generalizing n with
  | nil => simp [badSlotFrom]
  | cons f rest ih =>
    rw [badSlotFrom, List.all_cons, Bool.and_eq_true, slotLegal_iff]
    split
    · rename_i h
      simp only [reduceCtorEq, false_iff]
      omega
    · rename_i h
      rw [ih]
      exact ⟨fun h' => ⟨Nat.lt_of_not_le h, h'⟩, fun h' => h'.2⟩

theorem badSlotFrom_cause {n : Nat} {l : List (MemKind × Slot)} {f : FaultRec}
    (h : badSlotFrom n l = some f) : f.cause = .badSlot := by
  induction l generalizing n with
  | nil => cases h
  | cons g rest ih =>
    rw [badSlotFrom] at h
    split at h
    · injection h with h; rw [← h]
    · exact ih h

end Sys2Proof.Machine
end

