-- ==== Sys2Proof/Laws/Ops.lean ====
section
/-! SUPPORT. What the shared operations can do, each said once: `command`, the tile scan, the mask
traversal. -/

namespace Sys2Proof.Machine

open Sys2Proof

/-! ### `command` -/

/-- A command ends in a slot fault, in its first own fault, or completes (30_encoding.md R94). -/
theorem State.command_cases (s : State) (slots : List (MemKind × Slot))
    (body : State → State × Option FaultRec) :
    (∃ f, badSlotFrom 0 slots = some f ∧ s.command slots body = s.raise f) ∨
    (badSlotFrom 0 slots = none ∧ ∃ f, (body s).2 = some f ∧
      s.command slots body = (body s).1.raise f) ∨
    (badSlotFrom 0 slots = none ∧ (body s).2 = none ∧
      s.command slots body = (body s).1.setDone) := by
  unfold State.command
  cases h : badSlotFrom 0 slots with
  | some f => exact .inl ⟨f, rfl, rfl⟩
  | none =>
    cases h2 : (body s).2 with
    | some f => exact .inr (.inl ⟨rfl, f, rfl, rfl⟩)
    | none => exact .inr (.inr ⟨rfl, rfl, rfl⟩)

theorem State.command_bad {s : State} {slots : List (MemKind × Slot)} {f : FaultRec}
    (body : State → State × Option FaultRec) (h : badSlotFrom 0 slots = some f) :
    s.command slots body = s.raise f := by rw [State.command, h]

theorem State.command_ok {s : State} {slots : List (MemKind × Slot)}
    (body : State → State × Option FaultRec) (h : slots.all slotLegal = true) :
    s.command slots body = (body s).1.finish (body s).2 := by
  rw [State.command, (badSlotFrom_eq_none 0 slots).mpr h]

/-- A command whose slots exist and whose body raises nothing ends in `DONE`. -/
theorem State.command_completes {s t : State} {slots : List (MemKind × Slot)}
    {body : State → State × Option FaultRec} (hl : slots.all slotLegal = true)
    (h : body s = (t, none)) : s.command slots body = t.setDone := by
  rw [State.command_ok _ hl, h]
  rfl

/-- A command whose slots exist and whose body raises a fault ends in that fault. -/
theorem State.command_faults {s t : State} {slots : List (MemKind × Slot)}
    {body : State → State × Option FaultRec} {f : FaultRec} (hl : slots.all slotLegal = true)
    (h : body s = (t, some f)) : s.command slots body = t.raise f := by
  rw [State.command_ok _ hl, h]
  rfl

theorem State.overMem_eq {s : State} {f : Memory → Memory × Option FaultRec} {m : Memory}
    {o : Option FaultRec} (h : f s.mem = (m, o)) : s.overMem f = (s.withMem m, o) := by
  rw [State.overMem, h]

theorem slots_one {k : MemKind} {a : Slot} (h : a.toNat < k.slots) :
    [(k, a)].all slotLegal = true := by
  rw [List.all_cons, List.all_nil, Bool.and_true, slotLegal_iff]
  exact h

theorem slots_two {k l : MemKind} {a b : Slot} (h : a.toNat < k.slots) (h' : b.toNat < l.slots) :
    [(k, a), (l, b)].all slotLegal = true := by
  rw [List.all_cons, slots_one h', Bool.and_true, slotLegal_iff]
  exact h

theorem slots_three {k l n : MemKind} {a b c : Slot} (h : a.toNat < k.slots) (h' : b.toNat < l.slots)
    (h'' : c.toNat < n.slots) : [(k, a), (l, b), (n, c)].all slotLegal = true := by
  rw [List.all_cons, slots_two h' h'', Bool.and_true, slotLegal_iff]
  exact h

/-! ### The scan -/

section scan

variable {σ : Type} {body : Nat → σ → Except FaultRec σ}

theorem scanFrom_ok {i : Nat} {x x' : σ} (n : Nat) (h : body i x = .ok x') :
    scanFrom body i (n + 1) x = scanFrom body (i + 1) n x' := by rw [scanFrom, h]

theorem scanFrom_error {i : Nat} {x : σ} {f : FaultRec} (n : Nat) (h : body i x = .error f) :
    scanFrom body i (n + 1) x = (x, some f) := by rw [scanFrom, h]

/-- What every position keeps, the scan keeps. -/
theorem scanFrom_keeps (P : σ → Prop) (n : Nat) : ∀ (i : Nat) (x : σ),
    (∀ j y y', i ≤ j → j < i + n → P y → body j y = .ok y' → P y') → P x →
    P (scanFrom body i n x).1 := by
  induction n with
  | zero => intro i x _ hx; exact hx
  | succ n ih =>
    intro i x h hx
    cases hb : body i x with
    | error f => rw [scanFrom_error n hb]; exact hx
    | ok x' =>
      rw [scanFrom_ok n hb]
      exact ih (i + 1) x' (fun j y y' h0 h1 => h j y y' (by omega) (by omega))
        (h i x x' (Nat.le_refl _) (by omega) hx hb)

/-- The scan's fault is one of its positions'. -/
theorem scanFrom_fault (Q : FaultRec → Prop) (n : Nat) : ∀ (i : Nat) (x : σ),
    (∀ j y f, i ≤ j → j < i + n → body j y = .error f → Q f) →
    ∀ f, (scanFrom body i n x).2 = some f → Q f := by
  induction n with
  | zero => intro i x _ f hf; cases hf
  | succ n ih =>
    intro i x h f hf
    cases hb : body i x with
    | error g =>
      rw [scanFrom_error n hb] at hf
      injection hf with hf
      exact hf ▸ h i x g (Nat.le_refl _) (by omega) hb
    | ok x' =>
      rw [scanFrom_ok n hb] at hf
      exact ih (i + 1) x' (fun j y f h0 h1 => h j y f (by omega) (by omega)) f hf

/-- Two runs that every position keeps related end alike, related. -/
theorem scanFrom_related {τ : Type} {body' : Nat → τ → Except FaultRec τ} (R : σ → τ → Prop)
    (n : Nat) : ∀ (i : Nat) (x : σ) (y : τ),
    (∀ j x y, i ≤ j → j < i + n → R x y →
      (∃ f, body j x = .error f ∧ body' j y = .error f) ∨
      (∃ x' y', body j x = .ok x' ∧ body' j y = .ok y' ∧ R x' y')) → R x y →
    R (scanFrom body i n x).1 (scanFrom body' i n y).1 ∧
      (scanFrom body i n x).2 = (scanFrom body' i n y).2 := by
  induction n with
  | zero => intro i x y _ h; exact ⟨h, rfl⟩
  | succ n ih =>
    intro i x y h hr
    rcases h i x y (Nat.le_refl _) (by omega) hr with ⟨f, h1, h2⟩ | ⟨x', y', h1, h2, h3⟩
    · rw [scanFrom_error n h1, scanFrom_error n h2]; exact ⟨hr, rfl⟩
    · rw [scanFrom_ok n h1, scanFrom_ok n h2]
      exact ih (i + 1) x' y' (fun j x y h0 h4 => h j x y (by omega) (by omega)) h3

end scan

/-- A scan body whose position `i` (of `n`) writes the bytes `foot i` only, and reads no byte that
another position writes (20_memory.md R75). -/
structure PixelLocal (n : Nat) (foot : Nat → Nat → Prop)
    (body : Nat → Memory → Except FaultRec Memory) : Prop where
  /-- No byte belongs to two positions. -/
  apart : ∀ i j x, i < n → j < n → foot i x → foot j x → i = j
  /-- A position leaves every byte that is not its own. -/
  frame : ∀ i m m', i < n → body i m = .ok m' → ∀ x, ¬ foot i x → m'.read x = m.read x
  /-- A fault depends on no byte of another position. -/
  congr_error : ∀ i m m' f, i < n → (∀ x, (∀ j, j < n → j ≠ i → ¬ foot j x) → m.read x = m'.read x) →
    body i m = .error f → body i m' = .error f
  /-- A result depends on no byte of another position. -/
  congr_ok : ∀ i m m' r, i < n → (∀ x, (∀ j, j < n → j ≠ i → ¬ foot j x) → m.read x = m'.read x) →
    body i m = .ok r → ∃ r', body i m' = .ok r' ∧ ∀ x, foot i x → r'.read x = r.read x

section local_scan

variable {n : Nat} {foot : Nat → Nat → Prop} {body : Nat → Memory → Except FaultRec Memory}

/-- A local scan past `k` positions that raise nothing: each has the result it has on the memory the
scan began with, and no other byte has changed. -/
theorem PixelLocal.past (L : PixelLocal n foot body) (m : Memory) (k : Nat) (hk : k ≤ n)
    (h : ∀ j, j < k → ∃ mj, body j m = .ok mj) :
    ∃ mk, scanFrom body 0 n m = scanFrom body k (n - k) mk ∧
      (∀ j mj x, j < k → body j m = .ok mj → foot j x → mk.read x = mj.read x) ∧
      (∀ x, (∀ j, j < k → ¬ foot j x) → mk.read x = m.read x) := by
  induction k with
  | zero => exact ⟨m, rfl, fun j _ _ h1 => absurd h1 (by omega), fun _ _ => rfl⟩
  | succ k ih =>
    obtain ⟨mk, hs, hin, hout⟩ := ih (by omega) fun j h1 => h j (by omega)
    obtain ⟨m1, hm1⟩ := h k (by omega)
    have agree : ∀ x, (∀ j, j < n → j ≠ k → ¬ foot j x) → m.read x = mk.read x := fun x hx =>
      (hout x fun j h1 => hx j (by omega) (by omega)).symm
    obtain ⟨mk', hmk', hfoot⟩ := L.congr_ok k _ _ _ (by omega) agree hm1
    refine ⟨mk', ?_, ?_, ?_⟩
    · rw [hs, show n - k = (n - (k + 1)) + 1 by omega, scanFrom_ok _ hmk']
    · intro j mj x h1 hj hx
      by_cases hjk : j = k
      · subst hjk
        rw [hm1] at hj
        injection hj with hj
        rw [hfoot x hx, hj]
      · rw [L.frame _ _ _ (by omega) hmk' x fun hx' =>
          hjk (L.apart _ _ x (by omega) (by omega) hx hx')]
        exact hin j mj x (by omega) hj hx
    · intro x hx
      rw [L.frame _ _ _ (by omega) hmk' x (hx k (by omega))]
      exact hout x fun j h1 => hx j (by omega)

/-- A local scan in which no position raises a fault on the memory it began with. -/
theorem PixelLocal.completes (L : PixelLocal n foot body) (m : Memory)
    (h : ∀ j, j < n → ∃ mj, body j m = .ok mj) :
    ∃ m', scanFrom body 0 n m = (m', none) ∧
      (∀ j mj x, j < n → body j m = .ok mj → foot j x → m'.read x = mj.read x) ∧
      (∀ x, (∀ j, j < n → ¬ foot j x) → m'.read x = m.read x) := by
  obtain ⟨m', h1, h2, h3⟩ := L.past m n (Nat.le_refl _) h
  refine ⟨m', ?_, h2, h3⟩
  rw [h1, Nat.sub_self]
  rfl

/-- A local scan whose first fault is at position `k` (60_exceptions.md R307): the positions before
it have their results, every other byte is as before. -/
theorem PixelLocal.faults (L : PixelLocal n foot body) (m : Memory) (k : Nat) (f : FaultRec)
    (hk : k < n) (h : ∀ j, j < k → ∃ mj, body j m = .ok mj) (hf : body k m = .error f) :
    ∃ m', scanFrom body 0 n m = (m', some f) ∧
      (∀ j mj x, j < k → body j m = .ok mj → foot j x → m'.read x = mj.read x) ∧
      (∀ x, (∀ j, j < k → ¬ foot j x) → m'.read x = m.read x) := by
  obtain ⟨m', h1, h2, h3⟩ := L.past m k (by omega) h
  have agree : ∀ x, (∀ j, j < n → j ≠ k → ¬ foot j x) → m.read x = m'.read x := fun x hx =>
    (h3 x fun j h1 => hx j (by omega) (by omega)).symm
  refine ⟨m', ?_, h2, h3⟩
  rw [h1, show n - k = (n - k - 1) + 1 by omega,
    scanFrom_error _ (L.congr_error k m m' f hk agree hf)]

end local_scan

/-! ### The mask traversal -/

section mask

variable {σ : Type} {mask : Nat → Nat} {process : Nat → Nat → σ → Except FaultRec σ}

/-- What every visit keeps, the traversal keeps; a visited pixel lies inside the tile. -/
theorem maskWalk_keeps (P : σ → Prop)
    (h : ∀ p v y y', p < 4096 → 1 ≤ v → v ≤ 32768 → P y → process p v y = .ok y' → P y')
    (left m p : Nat) (x : σ) (hx : P x) : P (maskWalk mask process left m p x).1 := by
  fun_induction maskWalk mask process left m p x with
  | case1 => exact hx
  | case2 => exact hx
  | case3 => exact hx
  | case4 => exact hx
  | case5 _ _ _ _ _ _ _ ih => exact ih hx
  | case6 => exact hx
  | case7 => exact hx
  | case8 => exact hx
  | case9 left m p x h0 h1 h2 x' hb ih =>
    exact ih (h p (mask m) x x' (Nat.lt_of_not_le h2) (by omega)
      (Nat.le_of_not_lt h1) hx hb)

/-- The traversal's fault is a visit's, or one of the three mask faults. -/
theorem maskWalk_fault (Q : FaultRec → Prop)
    (h : ∀ p v y f, process p v y = .error f → Q f)
    (hm : ∀ c j, c = .maskValue ∨ c = .maskRange ∨ c = .maskOverrun → Q (maskFault c j))
    (left m p : Nat) (x : σ) (f : FaultRec)
    (hf : (maskWalk mask process left m p x).2 = some f) : Q f := by
  fun_induction maskWalk mask process left m p x with
  | case1 => injection hf with hf; exact hf ▸ hm _ _ (by simp)
  | case2 => injection hf with hf; exact hf ▸ hm _ _ (by simp)
  | case3 => cases hf
  | case4 => injection hf with hf; exact hf ▸ hm _ _ (by simp)
  | case5 _ _ _ _ _ _ _ ih => exact ih hf
  | case6 => injection hf with hf; exact hf ▸ hm _ _ (by simp)
  | case7 => injection hf with hf; exact hf ▸ hm _ _ (by simp)
  | case8 _ _ _ _ _ _ _ _ hb => injection hf with hf; exact hf ▸ h _ _ _ _ hb
  | case9 _ _ _ _ _ _ _ _ _ ih => exact ih hf

end mask

end Sys2Proof.Machine
end

