-- ==== Sys2Proof/Laws/Commands.lean ====
section
/-! SUPPORT. The per-pixel bodies of the commands: each touches its own pixel only, so
`PixelLocal.completes` and `PixelLocal.faults` (Ops.lean) say what the whole command does. -/

namespace Sys2Proof.Machine

open Sys2Proof

/-- The bytes of pixel `i` of a working slot. -/
def foot16 (s : Slot) (i x : Nat) : Prop := t16Addr s i 0 ≤ x ∧ x < t16Addr s i 0 + 8

/-- The bytes of pixel `i` of a storage slot. -/
def foot8 (s : Slot) (i x : Nat) : Prop := t8Addr s i 0 ≤ x ∧ x < t8Addr s i 0 + 4

/-- The byte of cell `i` of a stroke map. -/
def footSm (s : Slot) (i x : Nat) : Prop := x = smAddr s i

theorem Memory.pixel16_eq {m n : Memory} {s : Slot} {i : Nat}
    (h : ∀ x, foot16 s i x → m.read x = n.read x) : m.pixel16 s i = n.pixel16 s i :=
  Memory.pixel16_congr fun x h0 h1 => h x ⟨h0, h1⟩

theorem Memory.pixel8_eq {m n : Memory} {s : Slot} {i : Nat}
    (h : ∀ x, foot8 s i x → m.read x = n.read x) : m.pixel8 s i = n.pixel8 s i :=
  Memory.pixel8_congr fun x h0 h1 => h x ⟨h0, h1⟩

theorem Memory.sm_eq {m n : Memory} {s : Slot} {i : Nat}
    (h : m.read (smAddr s i) = n.read (smAddr s i)) : m.sm s i = n.sm s i := by
  unfold Memory.sm Memory.read8
  rw [h]

theorem foot16_apart {s : Slot} {i j x : Nat} (hi : foot16 s i x) (hj : foot16 s j x) : i = j := by
  unfold foot16 at hi hj
  rw [t16Addr_eq] at hi hj
  omega

theorem foot8_apart {s : Slot} {i j x : Nat} (hi : foot8 s i x) (hj : foot8 s j x) : i = j := by
  unfold foot8 at hi hj
  rw [t8Addr_eq] at hi hj
  omega

theorem footSm_apart {s : Slot} {i j x : Nat} (hi : footSm s i x) (hj : footSm s j x) : i = j := by
  unfold footSm at hi hj
  rw [smAddr_eq] at hi hj
  omega

/-- Pixel `i` of any working slot shares no byte with another pixel of a slot. -/
theorem foot16_other {s s' : Slot} {i j x : Nat} (hi : i < 4096) (hj : j < 4096) (hne : j ≠ i)
    (h : foot16 s i x) : ¬ foot16 s' j x := by
  intro h'
  unfold foot16 at h h'
  rw [t16Addr_eq] at h h'
  omega

theorem foot16_not_foot8 {s s' : Slot} {i j x : Nat} (hj : j < 4096) (h : foot16 s i x) :
    ¬ foot8 s' j x := by
  intro h'
  unfold foot16 at h
  unfold foot8 at h'
  rw [t16Addr_eq] at h
  rw [t8Addr_eq] at h'
  have := s'.isLt
  omega

theorem foot8_not_foot16 {s s' : Slot} {i j x : Nat} (hi : i < 4096) (h : foot8 s i x) :
    ¬ foot16 s' j x := fun h' => foot16_not_foot8 hi h' h

theorem foot8_other {s s' : Slot} {i j x : Nat} (hi : i < 4096) (hj : j < 4096) (hne : j ≠ i)
    (h : foot8 s i x) : ¬ foot8 s' j x := by
  intro h'
  unfold foot8 at h h'
  rw [t8Addr_eq] at h h'
  omega

theorem foot16_not_footSm {s s' : Slot} {i j x : Nat} (hj : j < 4096) (h : foot16 s i x) :
    ¬ footSm s' j x := by
  intro h'
  unfold foot16 at h
  unfold footSm at h'
  rw [t16Addr_eq] at h
  rw [smAddr_eq] at h'
  have := s'.isLt
  omega

/-! ### Stores against their own bytes -/

theorem Memory.read_setPixel16_frame {m : Memory} {s : Slot} {i : Nat} {p : Pixel} {x : Nat}
    (h : ¬ foot16 s i x) : (m.setPixel16 s i p).read x = m.read x :=
  Memory.read_setPixel16_other _ _ _ _ _ (by unfold foot16 at h; omega)

theorem Memory.read_setColour16_frame {m : Memory} {s : Slot} {i : Nat} {c : Rgb} {x : Nat}
    (h : ¬ foot16 s i x) : (m.setColour16 s i c).read x = m.read x :=
  Memory.read_setColour16_other _ _ _ _ _ (by unfold foot16 at h; omega)

theorem Memory.read_setPixel8_frame {m : Memory} {s : Slot} {i : Nat} {p : Pixel} {x : Nat}
    (h : ¬ foot8 s i x) : (m.setPixel8 s i p).read x = m.read x :=
  Memory.read_setPixel8_other _ _ _ _ _ (by unfold foot8 at h; omega)

theorem Memory.read_setSm_frame {m : Memory} {s : Slot} {i v x : Nat}
    (h : ¬ footSm s i x) : (m.setSm s i v).read x = m.read x :=
  Memory.read_setSm_other _ _ _ _ _ h

/-- A byte store into two memories that agree on a byte leaves them agreeing on it. -/
theorem Memory.read_write_congr {m n : Memory} (a : Nat) (b : Byte) {x : Nat}
    (h : m.read x = n.read x) : (m.write a b).read x = (n.write a b).read x := by
  rw [Memory.read_write, Memory.read_write, h]

theorem Memory.read_write16_congr {m n : Memory} (a v : Nat) {x : Nat}
    (h : m.read x = n.read x) : (m.write16 a v).read x = (n.write16 a v).read x :=
  Memory.read_write_congr _ _ (Memory.read_write_congr _ _ h)

theorem Memory.read_setColour16_congr {m n : Memory} (s : Slot) (i : Nat) (c : Rgb) {x : Nat}
    (h : m.read x = n.read x) : (m.setColour16 s i c).read x = (n.setColour16 s i c).read x :=
  Memory.read_write16_congr _ _ (Memory.read_write16_congr _ _ (Memory.read_write16_congr _ _ h))

theorem Memory.read_setPixel16_congr {m n : Memory} (s : Slot) (i : Nat) (p : Pixel) {x : Nat}
    (h : m.read x = n.read x) : (m.setPixel16 s i p).read x = (n.setPixel16 s i p).read x :=
  Memory.read_write16_congr _ _ (Memory.read_setColour16_congr _ _ _ h)

theorem Memory.read_setPixel8_congr {m n : Memory} (s : Slot) (i : Nat) (p : Pixel) {x : Nat}
    (h : m.read x = n.read x) : (m.setPixel8 s i p).read x = (n.setPixel8 s i p).read x :=
  Memory.read_write_congr _ _ (Memory.read_write_congr _ _ (Memory.read_write_congr _ _
    (Memory.read_write_congr _ _ h)))

theorem Memory.read_setSm_congr {m n : Memory} (s : Slot) (i v : Nat) {x : Nat}
    (h : m.read x = n.read x) : (m.setSm s i v).read x = (n.setSm s i v).read x :=
  Memory.read_write_congr _ _ h

/-! ### `checked` -/

theorem checked_ok {σ : Type} {f : Option FaultRec} {k y : σ} :
    checked f k = .ok y ↔ f = none ∧ k = y := by
  cases f <;> simp [checked]

theorem checked_error {σ : Type} {f : Option FaultRec} {k : σ} {e : FaultRec} :
    checked f k = .error e ↔ f = some e := by
  cases f <;> simp [checked]

/-! ### Local bodies -/

/-- A body that checks and computes from what it reads and then stores: it is local when its reads
see no byte of another position and its store writes its own bytes only. -/
theorem PixelLocal.of_checked {n : Nat} {foot : Nat → Nat → Prop} {α : Type}
    (view : Nat → Memory → α) (fault : Nat → α → Option FaultRec)
    (store : Nat → α → Memory → Memory)
    (apart : ∀ i j x, i < n → j < n → foot i x → foot j x → i = j)
    (hview : ∀ i m m', i < n →
      (∀ x, (∀ j, j < n → j ≠ i → ¬ foot j x) → m.read x = m'.read x) → view i m = view i m')
    (hframe : ∀ i v m x, i < n → ¬ foot i x → (store i v m).read x = m.read x)
    (hcongr : ∀ i v m m' x, m.read x = m'.read x → (store i v m).read x = (store i v m').read x) :
    PixelLocal n foot fun i m => checked (fault i (view i m)) (store i (view i m) m) where
  apart := apart
  frame i m m' hi h x hx := by
    obtain ⟨_, rfl⟩ := checked_ok.mp h
    exact hframe i _ m x hi hx
  congr_error i m m' f hi h hf := by
    rw [checked_error] at hf ⊢
    rw [← hview i m m' hi h]
    exact hf
  congr_ok i m m' r hi h hr := by
    obtain ⟨hn, rfl⟩ := checked_ok.mp hr
    refine ⟨store i (view i m') m', ?_, fun x hx => ?_⟩
    · rw [checked_ok, ← hview i m m' hi h]
      exact ⟨hn, rfl⟩
    · rw [← hview i m m' hi h]
      refine (hcongr i _ m m' x (h x fun j hj hne hx' => hne ?_)).symm
      exact apart j i x hj hi hx' hx

/-- A tile scan of a local checked body in which no check fails on the memory it began with. -/
theorem PixelLocal.scanTile_checked {foot : Nat → Nat → Prop} {fault : Nat → Memory → Option FaultRec}
    {store : Nat → Memory → Memory}
    (L : PixelLocal 4096 foot fun i m => checked (fault i m) (store i m)) (m : Memory)
    (h : ∀ i, i < 4096 → fault i m = none) :
    ∃ m', scanTile (fun i m => checked (fault i m) (store i m)) m = (m', none) ∧
      (∀ i x, i < 4096 → foot i x → m'.read x = (store i m).read x) ∧
      ∀ x, (∀ i, i < 4096 → ¬ foot i x) → m'.read x = m.read x := by
  obtain ⟨m', h1, h2, h3⟩ := L.completes m fun j hj => ⟨store j m, checked_ok.mpr ⟨h j hj, rfl⟩⟩
  exact ⟨m', h1, fun i x hi hx => h2 i _ x hi (checked_ok.mpr ⟨h i hi, rfl⟩) hx, h3⟩

/-- A tile scan of a local checked body whose first failing check is at pixel `k`. -/
theorem PixelLocal.scanTile_fault {foot : Nat → Nat → Prop} {fault : Nat → Memory → Option FaultRec}
    {store : Nat → Memory → Memory}
    (L : PixelLocal 4096 foot fun i m => checked (fault i m) (store i m)) (m : Memory) (k : Nat)
    (f : FaultRec) (hk : k < 4096) (h : ∀ i, i < k → fault i m = none) (hf : fault k m = some f) :
    ∃ m', scanTile (fun i m => checked (fault i m) (store i m)) m = (m', some f) ∧
      (∀ i x, i < k → foot i x → m'.read x = (store i m).read x) ∧
      ∀ x, (∀ i, i < k → ¬ foot i x) → m'.read x = m.read x := by
  obtain ⟨m', h1, h2, h3⟩ := L.faults m k f hk
    (fun j hj => ⟨store j m, checked_ok.mpr ⟨h j hj, rfl⟩⟩) (checked_error.mpr hf)
  exact ⟨m', h1, fun i x hi hx => h2 i _ x hi (checked_ok.mpr ⟨h i hi, rfl⟩) hx, h3⟩

/-- A byte outside a working slot belongs to none of its pixels. -/
theorem foot16_inSlot {s : Slot} {x : Nat} (h : ¬ inSlot (.t16, s) x) (i : Nat) (hi : i < 4096) :
    ¬ foot16 s i x := by
  intro hf
  unfold foot16 at hf
  rw [t16Addr_eq] at hf
  refine h ⟨?_, ?_⟩ <;> simp only [slotRange] <;> omega

/-- A byte outside a storage slot belongs to none of its pixels. -/
theorem foot8_inSlot {s : Slot} {x : Nat} (h : ¬ inSlot (.t8, s) x) (i : Nat) (hi : i < 4096) :
    ¬ foot8 s i x := by
  intro hf
  unfold foot8 at hf
  rw [t8Addr_eq] at hf
  refine h ⟨?_, ?_⟩ <;> simp only [slotRange] <;> omega

/-- A byte outside a stroke map belongs to none of its cells. -/
theorem footSm_inSlot {s : Slot} {x : Nat} (h : ¬ inSlot (.sm, s) x) (i : Nat) (hi : i < 4096) :
    ¬ footSm s i x := by
  intro hf
  unfold footSm at hf
  rw [smAddr_eq] at hf
  refine h ⟨?_, ?_⟩ <;> simp only [slotRange] <;> omega

theorem foot16_iff {s : Slot} {i x : Nat} : foot16 s i x ↔ inPixel16 s i x := by
  unfold foot16 inPixel16
  rw [t16Addr_eq]
  omega

/-- The checks of `COMP.*` pass exactly when both pixels meet their conditions. -/
theorem compCheck_eq_none {ha : Bool} {i : Nat} {S D : Pixel} :
    compCheck ha i S D = none ↔ S.Premul ∧ D.CompDst ha := by
  unfold compCheck
  rw [Option.or_eq_none_iff, Pixel.check_eq_none, Pixel.check_eq_none]
  cases ha <;> simp [compLevel, Level.holds, Pixel.CompDst]

/-- A working pixel of position `i` is not disturbed by the other pixels of a working slot. -/
theorem view16 {d s : Slot} {i : Nat} {m m' : Memory} (hi : i < 4096)
    (h : ∀ x, (∀ j, j < 4096 → j ≠ i → ¬ foot16 d j x) → m.read x = m'.read x) :
    m.pixel16 s i = m'.pixel16 s i :=
  Memory.pixel16_eq fun x hx => h x fun _ hj hne => foot16_other hi hj hne hx

theorem compPixel_local (colour : CompIn → Rgb) (op : Nat) (ha : Bool) (sa sb : Slot) :
    PixelLocal 4096 (foot16 sa) (compPixel colour op ha sa sb) :=
  PixelLocal.of_checked (fun i m => (m.pixel16 sb i, m.pixel16 sa i))
    (fun i v => compCheck ha i v.1 v.2)
    (fun i v => compStore ha sa i (colour ⟨v.1, v.2, op, ha⟩) (CompIn.outAlpha ⟨v.1, v.2, op, ha⟩))
    (fun _ _ _ _ _ => foot16_apart)
    (fun i m m' hi h => by rw [view16 hi h, view16 (s := sa) hi h])
    (fun i v m x _ hx => by
      cases ha
      · exact Memory.read_setColour16_frame hx
      · exact Memory.read_setPixel16_frame hx)
    (fun i v m m' x h => by
      cases ha
      · exact Memory.read_setColour16_congr _ _ _ h
      · exact Memory.read_setPixel16_congr _ _ _ h)

theorem cv16to8Pixel_local (noise : List Half) (sa sb : Slot) :
    PixelLocal 4096 (foot8 sa) (cv16to8Pixel noise sa sb) :=
  PixelLocal.of_checked (fun i m => m.pixel16 sb i) (fun i v => v.check .premul .b i)
    (fun i v m => m.setPixel8 sa i (toStorage v (noiseAt noise (2 * i)) (noiseAt noise (2 * i + 1))))
    (fun _ _ _ _ _ => foot8_apart)
    (fun _ _ _ _ h => Memory.pixel16_eq fun x hx => h x fun _ hj _ => foot16_not_foot8 hj hx)
    (fun _ _ _ _ _ hx => Memory.read_setPixel8_frame hx)
    (fun _ _ _ _ _ h => Memory.read_setPixel8_congr _ _ _ h)

theorem cv16to8xPixel_local (noise : List Half) (sa sb : Slot) :
    PixelLocal 4096 (foot8 sa) (cv16to8xPixel noise sa sb) :=
  PixelLocal.of_checked (fun i m => m.pixel16 sb i) (fun i v => v.check .range3 .b i)
    (fun i v m => m.setPixel8 sa i (toDisplay v.rgb (noiseAt noise i)))
    (fun _ _ _ _ _ => foot8_apart)
    (fun _ _ _ _ h => Memory.pixel16_eq fun x hx => h x fun _ hj _ => foot16_not_foot8 hj hx)
    (fun _ _ _ _ _ hx => Memory.read_setPixel8_frame hx)
    (fun _ _ _ _ _ h => Memory.read_setPixel8_congr _ _ _ h)

theorem cv8to16Pixel_local (sa sb : Slot) : PixelLocal 4096 (foot16 sa) (cv8to16Pixel sa sb) :=
  PixelLocal.of_checked (fun i m => m.pixel8 sb i) (fun _ _ => none)
    (fun i v m => m.setPixel16 sa i (toWorking v))
    (fun _ _ _ _ _ => foot16_apart)
    (fun _ _ _ hi h => Memory.pixel8_eq fun x hx => h x fun _ _ _ => foot8_not_foot16 hi hx)
    (fun _ _ _ _ _ hx => Memory.read_setPixel16_frame hx)
    (fun _ _ _ _ _ h => Memory.read_setPixel16_congr _ _ _ h)

theorem copy16_local (sa sb : Slot) :
    PixelLocal 4096 (foot16 sa) fun i m => .ok (m.setPixel16 sa i (m.pixel16 sb i)) :=
  PixelLocal.of_checked (fun i m => m.pixel16 sb i) (fun _ _ => none)
    (fun i v m => m.setPixel16 sa i v)
    (fun _ _ _ _ _ => foot16_apart) (fun _ _ _ hi h => view16 hi h)
    (fun _ _ _ _ _ hx => Memory.read_setPixel16_frame hx)
    (fun _ _ _ _ _ h => Memory.read_setPixel16_congr _ _ _ h)

theorem clear16_local (sa : Slot) :
    PixelLocal 4096 (foot16 sa) fun i m => .ok (m.setPixel16 sa i ⟨0, 0, 0, 0⟩) :=
  PixelLocal.of_checked (fun _ _ => ()) (fun _ _ => none)
    (fun i _ m => m.setPixel16 sa i ⟨0, 0, 0, 0⟩)
    (fun _ _ _ _ _ => foot16_apart) (fun _ _ _ _ _ => rfl)
    (fun _ _ _ _ _ hx => Memory.read_setPixel16_frame hx)
    (fun _ _ _ _ _ h => Memory.read_setPixel16_congr _ _ _ h)

theorem copy8_local (sa sb : Slot) :
    PixelLocal 4096 (foot8 sa) fun i m => .ok (m.setPixel8 sa i (m.pixel8 sb i)) :=
  PixelLocal.of_checked (fun i m => m.pixel8 sb i) (fun _ _ => none)
    (fun i v m => m.setPixel8 sa i v)
    (fun _ _ _ _ _ => foot8_apart)
    (fun _ _ _ hi h => Memory.pixel8_eq fun x hx => h x fun _ hj hne => foot8_other hi hj hne hx)
    (fun _ _ _ _ _ hx => Memory.read_setPixel8_frame hx)
    (fun _ _ _ _ _ h => Memory.read_setPixel8_congr _ _ _ h)

theorem clear8_local (sa : Slot) :
    PixelLocal 4096 (foot8 sa) fun i m => .ok (m.setPixel8 sa i ⟨0, 0, 0, 0⟩) :=
  PixelLocal.of_checked (fun _ _ => ()) (fun _ _ => none)
    (fun i _ m => m.setPixel8 sa i ⟨0, 0, 0, 0⟩)
    (fun _ _ _ _ _ => foot8_apart) (fun _ _ _ _ _ => rfl)
    (fun _ _ _ _ _ hx => Memory.read_setPixel8_frame hx)
    (fun _ _ _ _ _ h => Memory.read_setPixel8_congr _ _ _ h)

theorem flatPixel_local (sa sb : Slot) : PixelLocal 4096 (foot16 sa) (flatPixel sa sb) :=
  PixelLocal.of_checked (fun i m => (m.pixel16 sb i, m.pixel16 sa i))
    (fun i v => (v.1.check .range3 .b i).or (v.2.check .premul .a i))
    (fun i v m => m.setColour16 sa i (flatColourOf v.2 v.1.rgb))
    (fun _ _ _ _ _ => foot16_apart)
    (fun i m m' hi h => by rw [view16 hi h, view16 (s := sa) hi h])
    (fun _ _ _ _ _ hx => Memory.read_setColour16_frame hx)
    (fun _ _ _ _ _ h => Memory.read_setColour16_congr _ _ _ h)

theorem unflatPixel_local (sa sb : Slot) : PixelLocal 4096 (foot16 sa) (unflatPixel sa sb) :=
  PixelLocal.of_checked (fun i m => (m.pixel16 sb i, m.pixel16 sa i))
    (fun i v => (v.1.check .range3 .b i).or (v.2.check .range4 .a i))
    (fun i v m => m.setPixel16 sa i (unflatten v.2 v.1.rgb))
    (fun _ _ _ _ _ => foot16_apart)
    (fun i m m' hi h => by rw [view16 hi h, view16 (s := sa) hi h])
    (fun _ _ _ _ _ hx => Memory.read_setPixel16_frame hx)
    (fun _ _ _ _ _ h => Memory.read_setPixel16_congr _ _ _ h)

theorem strkPixel_local (sa sb sc : Slot) : PixelLocal 4096 (footSm sa) (strkPixel sa sb sc) :=
  PixelLocal.of_checked (fun i m => (m.pixel16 sb i, m.pixel16 sc i))
    (fun i v => (v.1.check .range4 .b i).or (v.2.check .range4 .c i))
    (fun i v m => m.setSm sa i (strokeCell v.1 v.2))
    (fun _ _ _ _ _ => footSm_apart)
    (fun i m m' _ h => by
      rw [Memory.pixel16_eq (s := sb) fun x hx => h x fun _ hj _ => foot16_not_footSm hj hx,
        Memory.pixel16_eq (s := sc) fun x hx => h x fun _ hj _ => foot16_not_footSm hj hx])
    (fun _ _ _ _ _ hx => Memory.read_setSm_frame hx)
    (fun _ _ _ _ _ h => Memory.read_setSm_congr _ _ _ h)

end Sys2Proof.Machine
end

