-- ==== Sys2Proof/Laws/Mask.lean ====
section
/-! SUPPORT. The mask traversal along a well-formed part of a mask (43_dab.md R202): it visits the
pixels of `MaskReach` in order, and each visit of a paint command acts as if it were the only one. -/

namespace Sys2Proof.Machine

open Sys2Proof

/-- The visits of a traversal, one after the other, up to the first fault. -/
def visitAll {σ : Type} (process : Nat → Nat → σ → Except FaultRec σ) :
    List (Nat × Nat) → σ → Except FaultRec σ
  | [], x => .ok x
  | e :: rest, x =>
    match process e.1 e.2 x with
    | .error f => .error f
    | .ok y => visitAll process rest y

section traversal

variable {σ : Type} {mask : Nat → Nat} {process : Nat → Nat → σ → Except FaultRec σ}

theorem visitAll_append {v w : List (Nat × Nat)} {x y : σ} (h : visitAll process v x = .ok y) :
    visitAll process (v ++ w) x = visitAll process w y := by
  induction v generalizing x with
  | nil => cases h; rfl
  | cons e rest ih =>
    rw [visitAll] at h
    rw [List.cons_append, visitAll]
    split at h
    · cases h
    · rename_i z hz
      exact ih h

theorem visitAll_append_ok {v w : List (Nat × Nat)} {x z : σ}
    (h : visitAll process (v ++ w) x = .ok z) :
    ∃ y, visitAll process v x = .ok y ∧ visitAll process w y = .ok z := by
  induction v generalizing x with
  | nil => exact ⟨x, rfl, h⟩
  | cons e rest ih =>
    rw [List.cons_append, visitAll] at h
    rw [visitAll]
    split at h
    · cases h
    · rename_i y hy
      exact ih h

theorem visitAll_single (p v : Nat) (x : σ) : visitAll process [(p, v)] x = process p v x := by
  rw [visitAll]
  cases process p v x <;> rfl

/-- The cursor stays inside the tile and the mask; the visited pixels rise. -/
theorem MaskReach.bounds {m p : Nat} {visits : List (Nat × Nat)} (h : MaskReach mask m p visits) :
    m ≤ 8192 ∧ p ≤ 4096 ∧ (∀ e ∈ visits, e.1 < p ∧ 1 ≤ e.2 ∧ e.2 ≤ 32768) ∧
      visits.Pairwise fun a b => a.1 < b.1 := by
  induction h with
  | start => exact ⟨by omega, by omega, by simp, .nil⟩
  | value m p visits _ inside nonzero legal room ih =>
    obtain ⟨h1, h2, h3, h4⟩ := ih
    refine ⟨by omega, by omega, fun e he => ?_, ?_⟩
    · rcases List.mem_append.mp he with he | he
      · have := h3 e he; omega
      · rw [List.mem_singleton.mp he]; exact ⟨by omega, nonzero, legal⟩
    · rw [List.pairwise_append]
      refine ⟨h4, List.pairwise_singleton _ _, fun a ha b hb => ?_⟩
      rw [List.mem_singleton.mp hb]
      exact (h3 a ha).1
  | skip m p visits _ inside _ _ room ih =>
    obtain ⟨h1, h2, h3, h4⟩ := ih
    exact ⟨by omega, room, fun e he => by have := h3 e he; omega, h4⟩

/-- One turn of the traversal on a legal run value. -/
theorem maskWalk_value {left m p : Nat} {x : σ} (h0 : 1 ≤ mask m) (h1 : mask m ≤ 32768)
    (hp : p < 4096) :
    maskWalk mask process (left + 1) m p x =
      match process p (mask m) x with
      | .error f => (x, some f)
      | .ok y => maskWalk mask process left (m + 1) (p + 1) y := by
  rw [maskWalk.eq_def]
  simp only
  rw [if_neg (by omega), if_neg (show ¬ mask m > Config.one from Nat.not_lt.mpr h1),
    if_neg (show ¬ p ≥ Config.npix from Nat.not_le.mpr hp)] <;> rfl

/-- One turn of the traversal on a sentinel and its skip count. -/
theorem maskWalk_sentinel {left m p : Nat} {x : σ} (h0 : mask m = 0) :
    maskWalk mask process (left + 2) m p x =
      if mask (m + 1) = 0 then (x, none)
      else if p + mask (m + 1) > 4096 then (x, some (maskFault .maskRange (m + 1)))
      else maskWalk mask process left (m + 2) (p + mask (m + 1)) x := by
  rw [maskWalk, if_pos h0]
  rfl

/-- The traversal is at word `m` once the visits before it are done. -/
theorem MaskReach.walk {m p : Nat} {visits : List (Nat × Nat)} (h : MaskReach mask m p visits) :
    ∀ {x y : σ}, visitAll process visits x = .ok y →
      maskWalk mask process 8192 0 0 x = maskWalk mask process (8192 - m) m p y := by
  induction h with
  | start => intro x y hv; cases hv; rfl
  | value m p visits _ inside nonzero legal room ih =>
    intro x z hv
    obtain ⟨y, h1, h2⟩ := visitAll_append_ok hv
    rw [visitAll_single] at h2
    rw [ih h1, show 8192 - m = (8192 - (m + 1)) + 1 by omega, maskWalk_value nonzero legal room, h2]
  | skip m p visits _ inside sentinel nonzero room ih =>
    intro x y hv
    rw [ih hv, show 8192 - m = 8192 - (m + 2) + 2 by omega, maskWalk_sentinel sentinel,
      if_neg (by omega), if_neg (Nat.not_lt.mpr room)]

/-- A traversal whose mask ends: the visits are all there is. -/
theorem MaskEnds.walk {visits : List (Nat × Nat)} (h : MaskEnds mask visits) {x y : σ}
    (hv : visitAll process visits x = .ok y) : maskWalk mask process 8192 0 0 x = (y, none) := by
  obtain ⟨m, p, hr, hm, h0, h1⟩ := h
  rw [hr.walk hv, show 8192 - m = 8192 - (m + 2) + 2 by omega, maskWalk_sentinel h0, if_pos h1]

/-- A traversal whose next visit faults stops there. -/
theorem MaskReach.walk_fault {m p : Nat} {visits : List (Nat × Nat)}
    (h : MaskReach mask m p visits) {x y : σ} {f : FaultRec}
    (hv : visitAll process visits x = .ok y) (hm : m < 8192) (h0 : 1 ≤ mask m)
    (h1 : mask m ≤ 32768) (hp : p < 4096) (hf : process p (mask m) y = .error f) :
    maskWalk mask process 8192 0 0 x = (y, some f) := by
  rw [h.walk hv, show 8192 - m = (8192 - (m + 1)) + 1 by omega, maskWalk_value h0 h1 hp, hf]

/-- A traversal over any mask ends, or faults at a mask word or at a visit: what a mask can do, said
once. -/
theorem maskWalk_cases (left m p : Nat) (x : σ) (hm : m + left = 8192)
    (visits : List (Nat × Nat)) (hr : MaskReach mask m p visits) (x0 : σ)
    (hv : visitAll process visits x0 = .ok x) :
    (∃ v y, MaskEnds mask v ∧ visitAll process v x0 = .ok y ∧
      maskWalk mask process left m p x = (y, none)) ∨
    ∃ m' p' v y f, MaskReach mask m' p' v ∧ visitAll process v x0 = .ok y ∧
      maskWalk mask process left m p x = (y, some f) ∧
      ((∃ c j, f = maskFault c j ∧ (c = .maskValue ∨ c = .maskRange ∨ c = .maskOverrun)) ∨
        m' < 8192 ∧ 1 ≤ mask m' ∧ mask m' ≤ 32768 ∧ p' < 4096 ∧
          process p' (mask m') y = .error f) := by
  fun_induction maskWalk mask process left m p x generalizing visits with
  | case1 m p x => exact .inr ⟨m, p, visits, x, _, hr, hv, rfl, .inl ⟨_, _, rfl, by simp⟩⟩
  | case2 m p x h0 => exact .inr ⟨m, p, visits, x, _, hr, hv, rfl, .inl ⟨_, _, rfl, by simp⟩⟩
  | case3 m p x h0 l h1 => exact .inl ⟨visits, x, ⟨m, p, hr, by omega, h0, h1⟩, hv, rfl⟩
  | case4 m p x h0 l h1 h2 =>
    exact .inr ⟨m, p, visits, x, _, hr, hv, rfl, .inl ⟨_, _, rfl, by simp⟩⟩
  | case5 m p x h0 l h1 h2 ih =>
    exact ih (by omega) visits
      (.skip m p visits hr (by omega) h0 (by omega) (Nat.le_of_not_lt h2)) hv
  | case6 l m p x h0 h1 =>
    exact .inr ⟨m, p, visits, x, _, hr, hv, rfl, .inl ⟨_, _, rfl, by simp⟩⟩
  | case7 l m p x h0 h1 h2 =>
    exact .inr ⟨m, p, visits, x, _, hr, hv, rfl, .inl ⟨_, _, rfl, by simp⟩⟩
  | case8 l m p x h0 h1 h2 f hf =>
    exact .inr ⟨m, p, visits, x, f, hr, hv, rfl,
      .inr ⟨by omega, by omega, Nat.le_of_not_lt h1, Nat.lt_of_not_le h2, hf⟩⟩
  | case9 l m p x h0 h1 h2 y hy ih =>
    refine ih (by omega) (visits ++ [(p, mask m)])
      (.value m p visits hr (by omega) (by omega) (Nat.le_of_not_lt h1) (Nat.lt_of_not_le h2)) ?_
    rw [visitAll_append hv, visitAll_single]
    exact hy

end traversal

/-! ### Visits that each touch their own pixel -/

/-- Visits of distinct pixels, each local to its pixel and none faulting on the memory the traversal
began with: each has the result it has on that memory, and no other byte has changed. -/
theorem visitAll_local {n : Nat} {foot : Nat → Nat → Prop}
    {body : Nat → Nat → Memory → Except FaultRec Memory}
    (L : ∀ v, PixelLocal n foot fun p => body p v) (m : Memory) (visits : List (Nat × Nat))
    (hd : visits.Pairwise fun a b => a.1 < b.1) (hn : ∀ e ∈ visits, e.1 < n)
    (h : ∀ e ∈ visits, ∃ me, body e.1 e.2 m = .ok me) :
    ∃ m', visitAll body visits m = .ok m' ∧
      (∀ e ∈ visits, ∀ me x, body e.1 e.2 m = .ok me → foot e.1 x → m'.read x = me.read x) ∧
      ∀ x, (∀ e ∈ visits, ¬ foot e.1 x) → m'.read x = m.read x := by
  induction visits using List.reverseRecOn with
  | nil => exact ⟨m, rfl, by simp, fun _ _ => rfl⟩
  | append_singleton rest e ih =>
    rw [List.pairwise_append] at hd
    obtain ⟨m1, h1, h2, h3⟩ := ih hd.1 (fun a ha => hn a (List.mem_append_left _ ha))
      fun a ha => h a (List.mem_append_left _ ha)
    have he : e ∈ rest ++ [e] := List.mem_append_right _ (List.mem_singleton.mpr rfl)
    obtain ⟨me, hme⟩ := h e he
    have hlt : ∀ a ∈ rest, a.1 < e.1 := fun a ha => hd.2.2 a ha e (List.mem_singleton.mpr rfl)
    have agree : ∀ x, (∀ j, j < n → j ≠ e.1 → ¬ foot j x) → m.read x = m1.read x := fun x hx =>
      (h3 x fun a ha => hx a.1 (hn a (List.mem_append_left _ ha)) (Nat.ne_of_lt (hlt a ha))).symm
    obtain ⟨m2, hm2, hfoot⟩ := (L e.2).congr_ok e.1 m m1 me (hn e he) agree hme
    refine ⟨m2, ?_, ?_, ?_⟩
    · rw [visitAll_append h1, ← Prod.eta e, visitAll_single]
      exact hm2
    · intro a ha ma x hma hx
      rcases List.mem_append.mp ha with ha' | ha'
      · rw [(L e.2).frame e.1 m1 m2 (hn e he) hm2 x fun hx' => Nat.ne_of_lt (hlt a ha')
          ((L e.2).apart _ _ x (hn a ha) (hn e he) hx hx')]
        exact h2 a ha' ma x hma hx
      · rw [List.mem_singleton.mp ha'] at hma hx
        rw [hme] at hma
        injection hma with hma
        rw [hfoot x hx, hma]
    · intro x hx
      rw [(L e.2).frame e.1 m1 m2 (hn e he) hm2 x (hx e he)]
      exact h3 x fun a ha => hx a (List.mem_append_left _ ha)

/-- The action of a paint command is local to the visited pixel. -/
theorem paintPixel_local (store : Nat → DabIn → Memory → Memory) (op : Nat) (col : Rgb) (sa : Slot)
    (hframe : ∀ p y m x, ¬ foot16 sa p x → (store p y m).read x = m.read x)
    (hcongr : ∀ p y m m' x, m.read x = m'.read x → (store p y m).read x = (store p y m').read x)
    (v : Nat) : PixelLocal 4096 (foot16 sa) fun p => paintPixel (store p) op col sa p v :=
  PixelLocal.of_checked (fun p m => m.pixel16 sa p) (fun p d => d.check .premul .a p)
    (fun p d m => store p (dabIn d v op col) m)
    (fun _ _ _ _ _ => foot16_apart) (fun _ _ _ hi h => view16 hi h)
    (fun _ _ _ _ _ hx => hframe _ _ _ _ hx) (fun _ _ _ _ _ h => hcongr _ _ _ _ _ h)

/-! ### Downscale -/

/-- The target pixels of distinct window positions are distinct. -/
theorem downsTarget_inj {dx dy v w : Nat}
    (h : downsTarget dx dy (v % 32) (v / 32) = downsTarget dx dy (w % 32) (w / 32)) : v = w := by
  unfold downsTarget at h
  simp only [show Config.tileN = 64 from rfl] at h
  omega

/-- A window position of `DOWNS` is local to its target pixel, when source and target differ. -/
theorem downsBlock_local (dx dy : Nat) (sa sb : Slot) (hx : dx ≤ 32) (hy : dy ≤ 32) (hab : sa ≠ sb) :
    PixelLocal 1024 (fun w => foot16 sa (downsTarget dx dy (w % 32) (w / 32)))
      fun w => downsBlock dx dy sa sb (w % 32) (w / 32) := by
  have hab' : sa.toNat ≠ sb.toNat := fun h => hab (BitVec.eq_of_toNat_eq h)
  have htgt : ∀ w, w < 1024 → downsTarget dx dy (w % 32) (w / 32) < 4096 := by
    intro w hw
    unfold downsTarget
    simp only [show Config.tileN = 64 from rfl]
    omega
  have hsrc : ∀ w a b, w < 1024 → a < 2 → b < 2 → downsSource (w % 32) (w / 32) a b < 4096 := by
    intro w a b hw ha hb
    unfold downsSource
    simp only [show Config.tileN = 64 from rfl]
    omega
  have sep : ∀ i j x, i < 4096 → j < 4096 → foot16 sb i x → ¬ foot16 sa j x := by
    intro i j x hi hj h1 h2
    unfold foot16 at h1 h2
    rw [t16Addr_eq] at h1 h2
    omega
  refine PixelLocal.of_checked
    (fun w m => fun a b => if a < 2 ∧ b < 2 then
      m.pixel16 sb (downsSource (w % 32) (w / 32) a b) else ⟨0, 0, 0, 0⟩)
    (fun w s =>
      let check := fun a b => (s a b).check .range4 .b (downsSource (w % 32) (w / 32) a b)
      ((check 0 0).or (check 1 0)).or ((check 0 1).or (check 1 1)))
    (fun w s m => m.setPixel16 sa (downsTarget dx dy (w % 32) (w / 32))
      (averagePixel (s 0 0) (s 1 0) (s 0 1) (s 1 1)))
    (fun i j x _ _ h1 h2 => downsTarget_inj (foot16_apart h1 h2))
    ?_ (fun _ _ _ _ _ h => Memory.read_setPixel16_frame h)
    (fun _ _ _ _ _ h => Memory.read_setPixel16_congr _ _ _ h)
  intro i m m' hi h
  funext a b
  by_cases hc : a < 2 ∧ b < 2
  · simp only [if_pos hc]
    exact Memory.pixel16_eq fun x hx' =>
      h x fun j hj _ hj' => sep _ _ x (hsrc i a b hi hc.1 hc.2) (htgt j hj) hx' hj'
  · simp only [if_neg hc]

end Sys2Proof.Machine
end

