-- ==== Sys2Proof/Laws/PerInstr.lean ====
section
/-! SUPPORT. A family of statements per instruction: its command word matches its own row of
spec/opcode_table.json, every field at every value (30_encoding.md R91, R97). -/

namespace Sys2Proof.Laws.EncodingRow

open Sys2Proof

/-- The mask and the match of an instruction's row (R97). -/
def row : Instr → Word × Word
  | .nop => (0xFFFFFFFF, 0x00000000)
  | .compNormal _ _ _ => (0xFFFEFF00, 0x10000000)
  | .compMultiply _ _ _ => (0xFFFEFF00, 0x11000000)
  | .compScreen _ _ _ => (0xFFFEFF00, 0x12000000)
  | .compDarken _ _ _ => (0xFFFEFF00, 0x13000000)
  | .compLighten _ _ _ => (0xFFFEFF00, 0x14000000)
  | .compOverlay _ _ _ => (0xFFFEFF00, 0x15000000)
  | .compHardlight _ _ _ => (0xFFFEFF00, 0x16000000)
  | .compSoftlight _ _ _ => (0xFFFEFF00, 0x17000000)
  | .compColordodge _ _ _ => (0xFFFEFF00, 0x18000000)
  | .compColorburn _ _ _ => (0xFFFEFF00, 0x19000000)
  | .compDifference _ _ _ => (0xFFFEFF00, 0x1A000000)
  | .compExclusion _ _ _ => (0xFFFEFF00, 0x1B000000)
  | .compHue _ _ _ => (0xFFFEFF00, 0x1C000000)
  | .compSaturation _ _ _ => (0xFFFEFF00, 0x1D000000)
  | .compColor _ _ _ => (0xFFFEFF00, 0x1E000000)
  | .compLuminosity _ _ _ => (0xFFFEFF00, 0x1F000000)
  | .dabn _ => (0xFFFFFFF0, 0x30000000)
  | .dabe _ => (0xFFFFFFF0, 0x31000000)
  | .dabl _ => (0xFFFFFFF0, 0x32000000)
  | .dabacc _ => (0xFFFFFFF0, 0x33000000)
  | .cv16to8 _ _ => (0xFFFFFF00, 0x40000000)
  | .cv16to8x _ _ => (0xFFFFFF00, 0x41000000)
  | .cv8to16 _ _ => (0xFFFFFF00, 0x42000000)
  | .tcpy16 _ _ => (0xFFFFFF00, 0x43000000)
  | .tclr16 _ => (0xFFFFFFF0, 0x44000000)
  | .tcpy8 _ _ => (0xFFFFFF00, 0x45000000)
  | .tclr8 _ => (0xFFFFFFF0, 0x46000000)
  | .flat _ _ => (0xFFFFFF00, 0x50000000)
  | .unflat _ _ => (0xFFFFFF00, 0x51000000)
  | .downs _ _ => (0xFFFFFF00, 0x60000000)
  | .strk _ _ _ => (0xFFFFF000, 0x70000000)

/-- The command word of the instruction matches its row. -/
def Statement (i : Instr) : Prop := encode i &&& (row i).1 = (row i).2

/-- A command word under a mask that keeps `OPC`, `Z1` and `Z2` and each other field by its own
mask. -/
theorem commandWord_and (opc : BitVec 8) (ha : Bool) (sc sb sa : Slot) (h : BitVec 1)
    (c b a : BitVec 4) :
    commandWord opc ha sc sb sa &&&
        ((0xFF#8 ++ 0x7F#7 ++ h ++ 0xF#4 ++ c ++ b ++ a : BitVec 32)) =
      opc ++ 0#7 ++ (BitVec.ofBool ha &&& h) ++ 0#4 ++ (sc &&& c) ++ (sb &&& b) ++ (sa &&& a) := by
  unfold commandWord
  rw [BitVec.and_append, BitVec.and_append, BitVec.and_append, BitVec.and_append,
    BitVec.and_append, BitVec.and_append, show (0xFF#8) = BitVec.allOnes 8 from rfl,
    BitVec.and_allOnes, BitVec.zero_and, BitVec.zero_and]

theorem and_zero4 (x : BitVec 4) : x &&& 0#4 = 0#4 := BitVec.and_zero

theorem and_zero1 (x : BitVec 1) : x &&& 0#1 = 0#1 := BitVec.and_zero

theorem rowNone (opc : BitVec 8) :
    commandWord opc false 0 0 0 &&& 0xFFFFFFFF#32 = opc ++ 0#7 ++ 0#1 ++ 0#4 ++ 0#4 ++ 0#4 ++ 0#4 :=
  commandWord_and opc false 0 0 0 1#1 0xF#4 0xF#4 0xF#4

theorem rowComp (opc : BitVec 8) (ha : Bool) (sa sb : Slot) :
    commandWord opc ha 0 sb sa &&& 0xFFFEFF00#32 =
      opc ++ 0#7 ++ 0#1 ++ 0#4 ++ 0#4 ++ 0#4 ++ 0#4 := by
  refine (commandWord_and opc ha 0 sb sa 0#1 0xF#4 0#4 0#4).trans ?_
  rw [and_zero1, and_zero4, and_zero4]
  rfl

theorem rowABC (opc : BitVec 8) (sa sb sc : Slot) :
    commandWord opc false sc sb sa &&& 0xFFFFF000#32 =
      opc ++ 0#7 ++ 0#1 ++ 0#4 ++ 0#4 ++ 0#4 ++ 0#4 := by
  refine (commandWord_and opc false sc sb sa 1#1 0#4 0#4 0#4).trans ?_
  rw [and_zero4, and_zero4, and_zero4]
  rfl

theorem rowAB (opc : BitVec 8) (sa sb : Slot) :
    commandWord opc false 0 sb sa &&& 0xFFFFFF00#32 =
      opc ++ 0#7 ++ 0#1 ++ 0#4 ++ 0#4 ++ 0#4 ++ 0#4 := by
  refine (commandWord_and opc false 0 sb sa 1#1 0xF#4 0#4 0#4).trans ?_
  rw [and_zero4, and_zero4]
  rfl

theorem rowA (opc : BitVec 8) (sa : Slot) :
    commandWord opc false 0 0 sa &&& 0xFFFFFFF0#32 =
      opc ++ 0#7 ++ 0#1 ++ 0#4 ++ 0#4 ++ 0#4 ++ 0#4 := by
  refine (commandWord_and opc false 0 0 sa 1#1 0xF#4 0xF#4 0#4).trans ?_
  rw [and_zero4]
  rfl

theorem nop : Statement (.nop) := rowNone 0x00

theorem compNormal (ha : Bool) (sa sb : Slot) : Statement (.compNormal ha sa sb) := rowComp 0x10 ha sa sb

theorem compMultiply (ha : Bool) (sa sb : Slot) : Statement (.compMultiply ha sa sb) := rowComp 0x11 ha sa sb

theorem compScreen (ha : Bool) (sa sb : Slot) : Statement (.compScreen ha sa sb) := rowComp 0x12 ha sa sb

theorem compDarken (ha : Bool) (sa sb : Slot) : Statement (.compDarken ha sa sb) := rowComp 0x13 ha sa sb

theorem compLighten (ha : Bool) (sa sb : Slot) : Statement (.compLighten ha sa sb) := rowComp 0x14 ha sa sb

theorem compOverlay (ha : Bool) (sa sb : Slot) : Statement (.compOverlay ha sa sb) := rowComp 0x15 ha sa sb

theorem compHardlight (ha : Bool) (sa sb : Slot) : Statement (.compHardlight ha sa sb) := rowComp 0x16 ha sa sb

theorem compSoftlight (ha : Bool) (sa sb : Slot) : Statement (.compSoftlight ha sa sb) := rowComp 0x17 ha sa sb

theorem compColordodge (ha : Bool) (sa sb : Slot) : Statement (.compColordodge ha sa sb) := rowComp 0x18 ha sa sb

theorem compColorburn (ha : Bool) (sa sb : Slot) : Statement (.compColorburn ha sa sb) := rowComp 0x19 ha sa sb

theorem compDifference (ha : Bool) (sa sb : Slot) : Statement (.compDifference ha sa sb) := rowComp 0x1A ha sa sb

theorem compExclusion (ha : Bool) (sa sb : Slot) : Statement (.compExclusion ha sa sb) := rowComp 0x1B ha sa sb

theorem compHue (ha : Bool) (sa sb : Slot) : Statement (.compHue ha sa sb) := rowComp 0x1C ha sa sb

theorem compSaturation (ha : Bool) (sa sb : Slot) : Statement (.compSaturation ha sa sb) := rowComp 0x1D ha sa sb

theorem compColor (ha : Bool) (sa sb : Slot) : Statement (.compColor ha sa sb) := rowComp 0x1E ha sa sb

theorem compLuminosity (ha : Bool) (sa sb : Slot) : Statement (.compLuminosity ha sa sb) := rowComp 0x1F ha sa sb

theorem dabn (sa : Slot) : Statement (.dabn sa) := rowA 0x30 sa

theorem dabe (sa : Slot) : Statement (.dabe sa) := rowA 0x31 sa

theorem dabl (sa : Slot) : Statement (.dabl sa) := rowA 0x32 sa

theorem dabacc (sa : Slot) : Statement (.dabacc sa) := rowA 0x33 sa

theorem cv16to8 (sa sb : Slot) : Statement (.cv16to8 sa sb) := rowAB 0x40 sa sb

theorem cv16to8x (sa sb : Slot) : Statement (.cv16to8x sa sb) := rowAB 0x41 sa sb

theorem cv8to16 (sa sb : Slot) : Statement (.cv8to16 sa sb) := rowAB 0x42 sa sb

theorem tcpy16 (sa sb : Slot) : Statement (.tcpy16 sa sb) := rowAB 0x43 sa sb

theorem tclr16 (sa : Slot) : Statement (.tclr16 sa) := rowA 0x44 sa

theorem tcpy8 (sa sb : Slot) : Statement (.tcpy8 sa sb) := rowAB 0x45 sa sb

theorem tclr8 (sa : Slot) : Statement (.tclr8 sa) := rowA 0x46 sa

theorem flat (sa sb : Slot) : Statement (.flat sa sb) := rowAB 0x50 sa sb

theorem unflat (sa sb : Slot) : Statement (.unflat sa sb) := rowAB 0x51 sa sb

theorem downs (sa sb : Slot) : Statement (.downs sa sb) := rowAB 0x60 sa sb

theorem strk (sa sb sc : Slot) : Statement (.strk sa sb sc) := rowABC 0x70 sa sb sc

end Sys2Proof.Laws.EncodingRow
end

