-- ==== Sys2Proof/Tests/Slice0.lean ====
section
/-! SUPPORT. The model's own tests: ill-formed instructions, every constructor's decoding, worked
examples of the spec run as whole commands, and a state and operands that meet the hypotheses of each
statement of Certificates/Slice0/Obligations.lean. Expected numbers are the spec's. -/

namespace Sys2Proof.Tests

/- The tests are elaborated one after another: each kernel evaluation in a thread of its own, all
waiting at once, would need more memory than a check may have. -/
set_option Elab.async false

open Sys2Proof Sys2Proof.Machine

/-! ### Well-formedness (30_encoding.md R93) -/

theorem test_wf_t16_sa : (Instr.tclr16 4#4).wellFormed = false := by decide

theorem test_wf_t16_sb : (Instr.compNormal true 0#4 4#4).wellFormed = false := by decide

theorem test_wf_t16_sc : (Instr.strk 0#4 0#4 4#4).wellFormed = false := by decide

theorem test_wf_t8 : (Instr.tclr8 2#4).wellFormed = false := by decide

theorem test_wf_sm : (Instr.strk 1#4 0#4 0#4).wellFormed = false := by decide

theorem test_wf_largest : (Instr.strk 0#4 3#4 3#4).wellFormed = true ∧
    (Instr.tcpy8 1#4 1#4).wellFormed = true := by decide

/-! ### Decoding: words written out from 30_encoding.md R91, R92, R110 -/

theorem test_decode_nop : decode 0x00000000#32 = .ok (.nop) := by decide

theorem test_decode_compNormal : decode 0x10010003#32 = .ok (.compNormal true 3#4 0#4) := by decide

theorem test_decode_compMultiply : decode 0x11010021#32 = .ok (.compMultiply true 1#4 2#4) := by decide

theorem test_decode_compScreen : decode 0x12010003#32 = .ok (.compScreen true 3#4 0#4) := by decide

theorem test_decode_compDarken : decode 0x13010021#32 = .ok (.compDarken true 1#4 2#4) := by decide

theorem test_decode_compLighten : decode 0x14010003#32 = .ok (.compLighten true 3#4 0#4) := by decide

theorem test_decode_compOverlay : decode 0x15010021#32 = .ok (.compOverlay true 1#4 2#4) := by decide

theorem test_decode_compHardlight : decode 0x16010003#32 = .ok (.compHardlight true 3#4 0#4) := by decide

theorem test_decode_compSoftlight : decode 0x17010021#32 = .ok (.compSoftlight true 1#4 2#4) := by decide

theorem test_decode_compColordodge : decode 0x18010003#32 = .ok (.compColordodge true 3#4 0#4) := by decide

theorem test_decode_compColorburn : decode 0x19010021#32 = .ok (.compColorburn true 1#4 2#4) := by decide

theorem test_decode_compDifference : decode 0x1A010003#32 = .ok (.compDifference true 3#4 0#4) := by decide

theorem test_decode_compExclusion : decode 0x1B010021#32 = .ok (.compExclusion true 1#4 2#4) := by decide

theorem test_decode_compHue : decode 0x1C010003#32 = .ok (.compHue true 3#4 0#4) := by decide

theorem test_decode_compSaturation : decode 0x1D010021#32 = .ok (.compSaturation true 1#4 2#4) := by decide

theorem test_decode_compColor : decode 0x1E010003#32 = .ok (.compColor true 3#4 0#4) := by decide

theorem test_decode_compLuminosity : decode 0x1F010021#32 = .ok (.compLuminosity true 1#4 2#4) := by decide

theorem test_decode_dabn : decode 0x30000003#32 = .ok (.dabn 3#4) := by decide

theorem test_decode_dabe : decode 0x31000002#32 = .ok (.dabe 2#4) := by decide

theorem test_decode_dabl : decode 0x32000001#32 = .ok (.dabl 1#4) := by decide

theorem test_decode_dabacc : decode 0x33000000#32 = .ok (.dabacc 0#4) := by decide

theorem test_decode_cv16to8 : decode 0x40000021#32 = .ok (.cv16to8 1#4 2#4) := by decide

theorem test_decode_cv16to8x : decode 0x41000031#32 = .ok (.cv16to8x 1#4 3#4) := by decide

theorem test_decode_cv8to16 : decode 0x42000013#32 = .ok (.cv8to16 3#4 1#4) := by decide

theorem test_decode_tcpy16 : decode 0x43000001#32 = .ok (.tcpy16 1#4 0#4) := by decide

theorem test_decode_tclr16 : decode 0x44000002#32 = .ok (.tclr16 2#4) := by decide

theorem test_decode_tcpy8 : decode 0x45000010#32 = .ok (.tcpy8 0#4 1#4) := by decide

theorem test_decode_tclr8 : decode 0x46000001#32 = .ok (.tclr8 1#4) := by decide

theorem test_decode_flat : decode 0x50000032#32 = .ok (.flat 2#4 3#4) := by decide

theorem test_decode_unflat : decode 0x51000003#32 = .ok (.unflat 3#4 0#4) := by decide

theorem test_decode_downs : decode 0x60000001#32 = .ok (.downs 1#4 0#4) := by decide

theorem test_decode_strk : decode 0x70000320#32 = .ok (.strk 0#4 2#4 3#4) := by decide

theorem test_decode_ha_zero : decode 0x10000001#32 = .ok (.compNormal false 1#4 0#4) := by decide

theorem test_reject_opcode : decode 0x20000000#32 = .error .undefinedOpcode := by decide

theorem test_reject_z1 : decode 0x10020001#32 = .error .reservedNotZero := by decide

theorem test_reject_z2 : decode 0x70001000#32 = .error .reservedNotZero := by decide

theorem test_reject_ha : decode 0x30010000#32 = .error .haNotZero := by decide

theorem test_reject_slot : decode 0x44000010#32 = .error .unusedSlotNotZero := by decide

/-! ### Worked examples, run as whole commands -/

/-- The state after an outcome that is a next state. -/
def after : Host.Outcome State Fault Refusal → State
  | .next t => t
  | _ => State.reset

/-- A pixel no check accepts: it ends a command early, so that the kernel runs few pixels. -/
def stop : Pixel := ⟨65535, 0, 0, 0⟩

/-- A state with these two pixels at index 0 of `T16` slots 0 and 1, `stop` at index 1 of slot 0, and
this opacity. -/
def two (op : Half) (p q : Pixel) : State :=
  { State.reset with
    opacity := op
    mem := ((Memory.setPixel16 [] 0#4 0 p).setPixel16 0#4 1 stop).setPixel16 1#4 0 q }

/-- The source and destination of 41_composite.md R150 to R165. -/
def compState : State := two 26214#16 ⟨8192, 16384, 4096, 24576⟩ ⟨12288, 4096, 16384, 20480⟩

theorem test_compNormal :
    (after (Machine.exec (.compNormal true 1#4 0#4) compState)).mem.pixel16 1#4 0 =
      ⟨11468, 14745, 9830, 27852⟩ ∧
    (after (Machine.exec (.compNormal false 1#4 0#4) compState)).mem.pixel16 1#4 0 =
      ⟨11468, 14745, 9830, 20480⟩ := by decide +kernel

theorem test_compMultiply :
    (after (Machine.exec (.compMultiply true 1#4 0#4) compState)).mem.pixel16 1#4 0 =
      ⟨9828, 8190, 9419, 27852⟩ ∧
    (after (Machine.exec (.compMultiply false 1#4 0#4) compState)).mem.pixel16 1#4 0 =
      ⟨7371, 3275, 8191, 20480⟩ := by decide +kernel

theorem test_compScreen :
    (after (Machine.exec (.compScreen true 1#4 0#4) compState)).mem.pixel16 1#4 0 =
      ⟨16382, 15563, 18021, 27852⟩ ∧
    (after (Machine.exec (.compScreen false 1#4 0#4) compState)).mem.pixel16 1#4 0 =
      ⟨16383, 15564, 18022, 20480⟩ := by decide +kernel

theorem test_compDarken :
    (after (Machine.exec (.compDarken true 1#4 0#4) compState)).mem.pixel16 1#4 0 =
      ⟨11467, 9010, 9829, 27852⟩ ∧
    (after (Machine.exec (.compDarken false 1#4 0#4) compState)).mem.pixel16 1#4 0 =
      ⟨11467, 4095, 9830, 20480⟩ := by decide +kernel

theorem test_compLighten :
    (after (Machine.exec (.compLighten true 1#4 0#4) compState)).mem.pixel16 1#4 0 =
      ⟨14743, 14744, 17611, 27852⟩ ∧
    (after (Machine.exec (.compLighten false 1#4 0#4) compState)).mem.pixel16 1#4 0 =
      ⟨12287, 14744, 16384, 20480⟩ := by decide +kernel

theorem test_compOverlay :
    (after (Machine.exec (.compOverlay true 1#4 0#4) compState)).mem.pixel16 1#4 0 =
      ⟨13105, 9829, 15973, 27852⟩ ∧
    (after (Machine.exec (.compOverlay false 1#4 0#4) compState)).mem.pixel16 1#4 0 =
      ⟨9829, 4914, 9830, 20480⟩ := by decide +kernel

theorem test_compHardlight :
    (after (Machine.exec (.compHardlight true 1#4 0#4) compState)).mem.pixel16 1#4 0 =
      ⟨12285, 12286, 11058, 27852⟩ ∧
    (after (Machine.exec (.compHardlight false 1#4 0#4) compState)).mem.pixel16 1#4 0 =
      ⟨9829, 9829, 9830, 20480⟩ := by decide +kernel

theorem test_compSoftlight :
    (after (Machine.exec (.compSoftlight true 1#4 0#4) compState)).mem.pixel16 1#4 0 =
      ⟨13761, 10025, 16300, 27852⟩ ∧
    (after (Machine.exec (.compSoftlight false 1#4 0#4) compState)).mem.pixel16 1#4 0 =
      ⟨10751, 5528, 13107, 20480⟩ := by decide +kernel

theorem test_compColordodge :
    (after (Machine.exec (.compColordodge true 1#4 0#4) compState)).mem.pixel16 1#4 0 =
      ⟨18429, 13924, 19577, 27852⟩ ∧
    (after (Machine.exec (.compColordodge false 1#4 0#4) compState)).mem.pixel16 1#4 0 =
      ⟨15973, 9009, 18349, 20480⟩ := by decide +kernel

theorem test_compColorburn :
    (after (Machine.exec (.compColorburn true 1#4 0#4) compState)).mem.pixel16 1#4 0 =
      ⟨7372, 6553, 7782, 27852⟩ ∧
    (after (Machine.exec (.compColorburn false 1#4 0#4) compState)).mem.pixel16 1#4 0 =
      ⟨4915, 1638, 6554, 20480⟩ := by decide +kernel

theorem test_compDifference :
    (after (Machine.exec (.compDifference true 1#4 0#4) compState)).mem.pixel16 1#4 0 =
      ⟨10648, 12287, 15563, 27852⟩ ∧
    (after (Machine.exec (.compDifference false 1#4 0#4) compState)).mem.pixel16 1#4 0 =
      ⟨5734, 12286, 13107, 20480⟩ := by decide +kernel

theorem test_compExclusion :
    (after (Machine.exec (.compExclusion true 1#4 0#4) compState)).mem.pixel16 1#4 0 =
      ⟨13925, 13925, 16383, 27852⟩ ∧
    (after (Machine.exec (.compExclusion false 1#4 0#4) compState)).mem.pixel16 1#4 0 =
      ⟨13926, 13926, 16384, 20480⟩ := by decide +kernel

theorem test_compHue :
    (after (Machine.exec (.compHue true 1#4 0#4) compState)).mem.pixel16 1#4 0 =
      ⟨9662, 13426, 7782, 27852⟩ ∧
    (after (Machine.exec (.compHue false 1#4 0#4) compState)).mem.pixel16 1#4 0 =
      ⟨7205, 8511, 6554, 20480⟩ := by decide +kernel

theorem test_compSaturation :
    (after (Machine.exec (.compSaturation true 1#4 0#4) compState)).mem.pixel16 1#4 0 =
      ⟨14305, 9391, 16763, 27852⟩ ∧
    (after (Machine.exec (.compSaturation false 1#4 0#4) compState)).mem.pixel16 1#4 0 =
      ⟨13164, 3334, 18080, 20480⟩ := by decide +kernel

theorem test_compColor :
    (after (Machine.exec (.compColor true 1#4 0#4) compState)).mem.pixel16 1#4 0 =
      ⟨9923, 13200, 8285, 27852⟩ ∧
    (after (Machine.exec (.compColor false 1#4 0#4) compState)).mem.pixel16 1#4 0 =
      ⟨7205, 8511, 6554, 20480⟩ := by decide +kernel

theorem test_compLuminosity :
    (after (Machine.exec (.compLuminosity true 1#4 0#4) compState)).mem.pixel16 1#4 0 =
      ⟨16288, 10554, 19155, 27852⟩ ∧
    (after (Machine.exec (.compLuminosity false 1#4 0#4) compState)).mem.pixel16 1#4 0 =
      ⟨17603, 9411, 21699, 20480⟩ := by decide +kernel

/-- The mask `20000, 0, 0` and the operands of 43_dab.md R210 to R212. -/
def dabState (ca : Half) : State :=
  { State.reset with
    opacity := 26214#16, colorR := 32768#16, colorA := ca
    mem := (Memory.write16 [] (maskAddr 0) 20000).setPixel16 1#4 0 ⟨12288, 4096, 16384, 20480⟩ }

theorem test_dabn : (after (Machine.exec (.dabn 1#4) (dabState 0#16))).mem.pixel16 1#4 0 =
    ⟨22287, 2096, 8384, 26479⟩ := by decide +kernel

theorem test_dabe : (after (Machine.exec (.dabe 1#4) (dabState 16384#16))).mem.pixel16 1#4 0 =
    ⟨14287, 2096, 8384, 18479⟩ := by decide +kernel

theorem test_dabe_erase : (after (Machine.exec (.dabe 1#4) (dabState 0#16))).mem.pixel16 1#4 0 =
    ⟨6288, 2096, 8384, 10480⟩ := by decide +kernel

theorem test_dabl : (after (Machine.exec (.dabl 1#4) (dabState 0#16))).mem.pixel16 1#4 0 =
    ⟨16287, 2096, 8384, 20480⟩ := by decide +kernel

/-- The example of 43_dab.md R213: mask `20000, 32768, 1, 0, 0` over three pixels. -/
def accState : State :=
  { State.reset with
    accW := 1#64
    mem := (((Memory.write16 [] (maskAddr 0) 20000).write16 (maskAddr 1) 32768).write16
      (maskAddr 2) 1).setPixel16 0#4 0 ⟨12288, 4096, 16384, 20480⟩ |>.setPixel16 0#4 2
        ⟨32768, 32768, 32768, 32768⟩ }

theorem test_dabacc :
    let t := after (Machine.exec (.dabacc 0#4) accState)
    (t.accW, t.accR, t.accG, t.accB, t.accA) = (52770#64, 7501#64, 2501#64, 10001#64, 12501#64) ∧
      t.status = 1#2 := by decide +kernel

theorem test_cv16to8 :
    (after (Machine.exec (.cv16to8 1#4 0#4) compState)).mem.pixel8 1#4 0 = ⟨85, 170, 43, 191⟩ := by
  decide +kernel

theorem test_cv16to8x :
    (after (Machine.exec (.cv16to8x 1#4 0#4) compState)).mem.pixel8 1#4 0 = ⟨64, 128, 32, 255⟩ := by
  decide +kernel

/-- What one pixel holds after a command that cannot fault: the law of the local scan, on a state. -/
theorem run_local {foot : Nat → Nat → Prop} {body : Nat → Memory → Except FaultRec Memory}
    {slots : List (MemKind × Slot)} (L : PixelLocal 4096 foot body) (s : State)
    (hl : slots.all slotLegal = true) (h : ∀ j, j < 4096 → ∃ mj, body j s.mem = .ok mj) (i : Nat)
    (hi : i < 4096) {mi : Memory} (hb : body i s.mem = .ok mi) (x : Nat) (hx : foot i x) :
    (s.command slots fun s => s.overMem (scanTile body)).mem.read x = mi.read x := by
  obtain ⟨m', h1, h2, _⟩ := L.completes s.mem h
  rw [State.command_completes hl (State.overMem_eq h1)]
  exact h2 i mi x hi hb hx

/-- The storage pixel `(200, 100, 50, 37)` at index 4095 of `T8` slot 1, and a working pixel with cells
above 32768 at index 4095 of `T16` slot 0. -/
def copyState : State :=
  { State.reset with
    mem := (Memory.setPixel8 [] 1#4 4095 ⟨200, 100, 50, 37⟩).setPixel16 0#4 4095
      ⟨65535, 1, 256, 3⟩ }

theorem cv8to16_pixel (sa sb : Slot) (s : State) (i : Nat) (h : sa.toNat < 4) (h' : sb.toNat < 2) (hi : i < 4096) :
    (after (Machine.exec (.cv8to16 sa sb) s)).mem.pixel16 sa i =
      (s.mem.setPixel16 sa i (toWorking (s.mem.pixel8 sb i))).pixel16 sa i :=
  Memory.pixel16_eq (run_local (cv8to16Pixel_local sa sb) s (slots_two (k := .t16) (l := .t8) h h')
    (fun _ _ => ⟨_, rfl⟩) i hi rfl)

theorem test_cv8to16 : (after (Machine.exec (.cv8to16 2#4 1#4) copyState)).mem.pixel16 2#4 4095 =
    ⟨3729, 1865, 932, 4755⟩ :=
  (cv8to16_pixel 2#4 1#4 copyState 4095 (by decide) (by decide) (by decide)).trans (by decide +kernel)

theorem tcpy16_pixel (sa sb : Slot) (s : State) (i : Nat) (h : sa.toNat < 4) (h' : sb.toNat < 4) (hi : i < 4096) :
    (after (Machine.exec (.tcpy16 sa sb) s)).mem.pixel16 sa i =
      (s.mem.setPixel16 sa i (s.mem.pixel16 sb i)).pixel16 sa i :=
  Memory.pixel16_eq (run_local (copy16_local sa sb) s (slots_two (k := .t16) (l := .t16) h h')
    (fun _ _ => ⟨_, rfl⟩) i hi rfl)

/-- A cell above 32768 is copied as it is (44_convert.md R236). -/
theorem test_tcpy16 : (after (Machine.exec (.tcpy16 2#4 0#4) copyState)).mem.pixel16 2#4 4095 =
    ⟨65535, 1, 256, 3⟩ :=
  (tcpy16_pixel 2#4 0#4 copyState 4095 (by decide) (by decide) (by decide)).trans (by decide +kernel)

theorem tclr16_pixel (sa : Slot) (s : State) (i : Nat) (h : sa.toNat < 4) (hi : i < 4096) :
    (after (Machine.exec (.tclr16 sa) s)).mem.pixel16 sa i =
      (s.mem.setPixel16 sa i ⟨0, 0, 0, 0⟩).pixel16 sa i :=
  Memory.pixel16_eq (run_local (clear16_local sa) s (slots_one (k := .t16) h)
    (fun _ _ => ⟨_, rfl⟩) i hi rfl)

theorem test_tclr16 : (after (Machine.exec (.tclr16 0#4) copyState)).mem.pixel16 0#4 4095 =
    ⟨0, 0, 0, 0⟩ :=
  (tclr16_pixel 0#4 copyState 4095 (by decide) (by decide)).trans (by decide +kernel)

theorem tcpy8_pixel (sa sb : Slot) (s : State) (i : Nat) (h : sa.toNat < 2) (h' : sb.toNat < 2) (hi : i < 4096) :
    (after (Machine.exec (.tcpy8 sa sb) s)).mem.pixel8 sa i =
      (s.mem.setPixel8 sa i (s.mem.pixel8 sb i)).pixel8 sa i :=
  Memory.pixel8_eq (run_local (copy8_local sa sb) s (slots_two (k := .t8) (l := .t8) h h')
    (fun _ _ => ⟨_, rfl⟩) i hi rfl)

theorem test_tcpy8 : (after (Machine.exec (.tcpy8 0#4 1#4) copyState)).mem.pixel8 0#4 4095 =
    ⟨200, 100, 50, 37⟩ :=
  (tcpy8_pixel 0#4 1#4 copyState 4095 (by decide) (by decide) (by decide)).trans (by decide +kernel)

theorem tclr8_pixel (sa : Slot) (s : State) (i : Nat) (h : sa.toNat < 2) (hi : i < 4096) :
    (after (Machine.exec (.tclr8 sa) s)).mem.pixel8 sa i =
      (s.mem.setPixel8 sa i ⟨0, 0, 0, 0⟩).pixel8 sa i :=
  Memory.pixel8_eq (run_local (clear8_local sa) s (slots_one (k := .t8) h)
    (fun _ _ => ⟨_, rfl⟩) i hi rfl)

theorem test_tclr8 : (after (Machine.exec (.tclr8 1#4) copyState)).mem.pixel8 1#4 4095 =
    ⟨0, 0, 0, 0⟩ :=
  (tclr8_pixel 1#4 copyState 4095 (by decide) (by decide)).trans (by decide +kernel)

theorem test_flat : (after (Machine.exec (.flat 0#4 1#4)
    (two 0#16 ⟨8192, 16384, 4096, 24576⟩ ⟨10000, 20000, 30000, 65535⟩))).mem.pixel16 0#4 0 =
    ⟨10692, 21384, 11596, 24576⟩ := by decide +kernel

theorem test_unflat : (after (Machine.exec (.unflat 0#4 1#4)
    (two 0#16 ⟨12000, 12000, 12000, 0⟩ ⟨10000, 20000, 12000, 65535⟩))).mem.pixel16 0#4 0 =
    ⟨6000, 0, 4800, 13108⟩ := by decide +kernel

/-- Source pixels 0, 1, 64, 65 go to target pixel 32 with `DST_X` = 32; samples 1, 2, 3, 5 give 2 and
32768, 32768, 32768, 32767 give 32767 (46_downscale.md R271). -/
theorem test_downs :
    (after (Machine.exec (.downs 1#4 0#4)
      { State.reset with
        dstX := 32#16
        mem := ((((Memory.setPixel16 [] 0#4 0 ⟨1, 32768, 0, 9⟩).setPixel16 0#4 1
          ⟨2, 32768, 0, 9⟩).setPixel16 0#4 64 ⟨3, 32768, 0, 9⟩).setPixel16 0#4 65
            ⟨5, 32767, 0, 9⟩).setPixel16 0#4 2 stop })).mem.pixel16 1#4 32 = ⟨2, 32767, 0, 9⟩ := by
  decide +kernel

theorem test_strk_flagged : (after (Machine.exec (.strk 0#4 0#4 1#4)
    (two 0#16 ⟨0, 0, 0, 2000⟩ ⟨0, 0, 0, 3001⟩))).mem.sm 0#4 0 = 1 := by decide +kernel

theorem test_strk_not_flagged : (after (Machine.exec (.strk 0#4 0#4 1#4)
    (two 0#16 ⟨0, 0, 0, 2000⟩ ⟨0, 0, 0, 3000⟩))).mem.sm 0#4 0 = 0 := by decide +kernel

theorem test_nop : Machine.exec .nop State.reset = .next { State.reset with status := 1#2 } := rfl

/-- `PIX_PREMUL` on green of pixel 130 of `SB`: the example of 60_exceptions.md R302. -/
theorem test_fault_info :
    (after (Machine.exec (.compNormal true 1#4 0#4)
      { State.reset with
        opacity := 1#16, mem := Memory.setPixel16 [] 0#4 130 ⟨5, 6, 0, 5⟩ })).readReg .errInfo =
      0x00110082#32 := by decide +kernel

/-! ### The port and reset -/

theorem test_reset_wf : State.reset.mem.wf = true := rfl

/-- The first values of `NOISE_REF` (10_state.md R48). -/
theorem test_noise_first : Config.noiseRef.take 4 = [17822#16, 6742#16, 11097#16, 18499#16] := by
  decide +kernel

theorem test_fetch_word :
    step (State.reset.withFetchWord 32 0x43000010) =
      Machine.exec (.tcpy16 0#4 1#4) { State.reset with cmd := 0x43000010#32, answer := .ok } := rfl

theorem test_table_word : decodeTableWord 32 0x70000320 = some (.strk 0#4 2#4 3#4) := by decide

/-- 30_encoding.md R110: the text and the word of a command. -/
theorem test_text : instrText (.compMultiply true 1#4 0#4) = "COMP.MULTIPLY.A T1, T0" ∧
    cmdEvent (.compMultiply true 1#4 0#4) = .write 0x00010#20 .b4 0x11010001#32 := by decide +kernel

/-- `MASKW 2, 0x8000` then a read of the cell's high byte (20_memory.md R66). -/
theorem test_host_bytes :
    (after (step (after (step { State.reset with
      inbox := assemble [.maskw 2 0x8000#16, .rm 0x10005#20 .b1] })))).answer = .data 0x80#32 := by
  decide +kernel

/-! ### Witnesses: states and operands that meet the hypotheses of each statement

`witness_<statement>` meets the hypotheses of `Obligations.<statement>`; where it has several clauses
there is one for each. -/

/-- The reset state with these events waiting. -/
def waiting (events : List HostEvent) : State := { State.reset with inbox := events }

/-- A state with `ERR` latched and these events waiting. -/
def latched (events : List HostEvent) : State :=
  { waiting events with status := 2#2, errCode := 5#4 }

/-- A table of one value at the lower end of the band. -/
@[irreducible] def flatNoise : List Half := List.replicate 8192 984#16

theorem flatNoise_ok : noiseOk flatNoise := by
  unfold flatNoise
  exact ⟨List.length_replicate, fun v hv => by rw [List.eq_of_mem_replicate hv]; decide⟩

theorem waiting_inbox (e : List HostEvent) : (waiting e).inbox = e := rfl

theorem waiting_err (e : List HostEvent) : (waiting e).status.getLsbD 1 = false := by
  show BitVec.getLsbD 0#2 1 = false
  decide

theorem latched_inbox (e : List HostEvent) : (latched e).inbox = e := rfl

theorem latched_err (e : List HostEvent) : (latched e).status.getLsbD 1 = true := by
  show BitVec.getLsbD 2#2 1 = true
  decide

theorem witness_EncodeOfDecode : decode 0x1F010021#32 = .ok (.compLuminosity true 1#4 2#4) := by
  decide

theorem witness_LegalCommandWords_illegal :
    (waiting [.write 0x00010#20 .b4 0x20000000#32]).inbox = [.write 0x00010#20 .b4 0x20000000#32] ∧
    (waiting [.write 0x00010#20 .b4 0x20000000#32]).status.getLsbD 1 = false ∧
    ∀ r ∈ commandRows, 0x20000000#32 &&& r.1 ≠ r.2 :=
  ⟨rfl, waiting_err _, fun r hr => by
    have h : commandRows.all (fun r => 0x20000000#32 &&& r.1 != r.2) = true := by decide +kernel
    exact bne_iff_ne.mp (List.all_eq_true.mp h r hr)⟩

/-- The three fields that can name no slot. -/
theorem witness_LegalCommandWords_slot :
    (∀ w : Word, (waiting [.write 0x00010#20 .b4 w]).inbox = [.write 0x00010#20 .b4 w] ∧
      (waiting [.write 0x00010#20 .b4 w]).status.getLsbD 1 = false) ∧
    decode 0x44000004#32 = .ok (.tclr16 4#4) ∧ (Instr.tclr16 4#4).wellFormed = false ∧
    decode 0x43000040#32 = .ok (.tcpy16 0#4 4#4) ∧ (Instr.tcpy16 0#4 4#4).wellFormed = false ∧
    decode 0x70000400#32 = .ok (.strk 0#4 0#4 4#4) ∧ (Instr.strk 0#4 0#4 4#4).wellFormed = false :=
  ⟨fun _ => ⟨rfl, waiting_err _⟩, by decide⟩

theorem witness_StepRunsDecodedCommand :
    let s := waiting [.write 0x00010#20 .b4 0x43000010#32]
    s.inbox = .write 0x00010#20 .b4 0x43000010#32 :: [] ∧ s.status.getLsbD 1 = false ∧
      decode 0x43000010#32 = .ok (.tcpy16 0#4 1#4) := ⟨rfl, waiting_err _, by decide⟩

theorem witness_EveryStepAnswersNext : State.reset.inbox = [] := rfl

/-- A state with memory, a latched fault and a waiting event, and its next state. -/
theorem witness_StepKeepsInvariant :
    let s := { latched [.write 0x00008#20 .b4 2#32] with
      noise := flatNoise, mem := [(0x10000, 1#8), (0x9FFFF, 255#8)], opacity := 32768#16 }
    s.Inv ∧ step s = .next { s with inbox := [], answer := .ok, status := 0#2, errCode := 0#4 } :=
  ⟨⟨by decide, by decide, by decide, by decide, by decide, by decide, by decide, flatNoise_ok,
    by decide, by decide, by decide⟩, rfl⟩

/-- A reset event in a state that holds a fault, and the state after it. -/
theorem witness_RegistersAfterReset :
    (latched [.rst []]).inbox = .rst [] :: [] ∧ step (latched [.rst []]) = .next State.reset :=
  ⟨rfl, rfl⟩

theorem witness_OnlyNoiseSurvivesReset :
    let e : HostEvent := .rst [(0x10000, 1#8), (0x9FFFF, 255#8)]
    (waiting [e]).inbox = e :: [] ∧ (latched [e]).inbox = e :: [] ∧
      (waiting [e]).noise = (latched [e]).noise ∧
      Memory.wf [(0x10000, 1#8), (0x9FFFF, 255#8)] = true ∧
      ∀ c ∈ ([(0x10000, 1#8), (0x9FFFF, 255#8)] : Memory), inRam c.1 := by
  refine ⟨rfl, rfl, rfl, by decide, ?_⟩
  unfold inRam
  decide

theorem witness_HaltedEngineDiscards :
    (latched [.write 0x00010#20 .b4 0x43000010#32]).status.getLsbD 1 = true ∧
    (latched [.write 0x00010#20 .b4 0x43000010#32]).inbox =
      .write 0x00010#20 .b4 0x43000010#32 :: [] := ⟨latched_err _, rfl⟩

theorem witness_HaltedEngineDiscards_resume :
    BitVec.getLsbD 2#32 1 = true ∧ decode 0x43000010#32 = .ok (.tcpy16 0#4 1#4) ∧
    (latched [.write 0x00008#20 .b4 2#32, .write 0x00010#20 .b4 0x43000010#32]).inbox =
      .write 0x00008#20 .b4 2#32 :: .write 0x00010#20 .b4 0x43000010#32 :: [] :=
  ⟨by decide, by decide, rfl⟩

theorem witness_StatusWriteClears :
    (latched [.write 0x00008#20 .b4 3#32]).inbox = .write 0x00008#20 .b4 3#32 :: [] := rfl

/-- The greatest value stored as it is and the least that is clamped, at the first and the last of the
five registers. -/
theorem witness_ScalarRegistersLegalise :
    0x00020#20 ∈ [0x00020#20, 0x00024#20, 0x00028#20, 0x0002C#20, 0x00030#20] ∧
    0x00030#20 ∈ [0x00020#20, 0x00024#20, 0x00028#20, 0x0002C#20, 0x00030#20] ∧
    (waiting [.write 0x00020#20 .b4 32768#32]).inbox = .write 0x00020#20 .b4 32768#32 :: [] ∧
    (waiting [.write 0x00030#20 .b4 32769#32]).inbox = .write 0x00030#20 .b4 32769#32 :: [] :=
  ⟨by decide, by decide, rfl, rfl⟩

/-- Each of the thirteen clauses, and any other that asks only for a waiting write. -/
theorem witness_PlainRegisterWrites :
    ∀ a ∈ [0x0000C#20, 0x00034#20, 0x00038#20, 0x00040#20, 0x00044#20, 0x00048#20, 0x0004C#20,
      0x00050#20, 0x00054#20, 0x00058#20, 0x0005C#20, 0x00060#20, 0x00064#20],
    (waiting [.write a .b4 0xFFFFFFFF#32]).inbox = .write a .b4 0xFFFFFFFF#32 :: [] := fun _ _ => rfl

/-- Writes that are not legal: to the noise ROM, between the regions, misaligned, to a byte of a
register, to an offset with no register. -/
theorem witness_RefusedAccess_write :
    ¬ LegalWrite (BitVec.toNat 0x20000#20) Size.b4.bytes ∧
    ¬ LegalWrite (BitVec.toNat 0x14000#20) Size.b1.bytes ∧
    ¬ LegalWrite (BitVec.toNat 0x10001#20) Size.b2.bytes ∧
    ¬ LegalWrite (BitVec.toNat 0x00020#20) Size.b1.bytes ∧
    ¬ LegalWrite (BitVec.toNat 0x00068#20) Size.b4.bytes ∧
    (waiting [.write 0x20000#20 .b4 1#32]).inbox = .write 0x20000#20 .b4 1#32 :: [] := by
  unfold LegalWrite inRam
  refine ⟨?_, ?_, ?_, ?_, ?_, rfl⟩ <;> decide

theorem witness_RefusedAccess_read :
    ¬ LegalRead (BitVec.toNat 0x24000#20) Size.b2.bytes ∧
    ¬ LegalRead (BitVec.toNat 0x20002#20) Size.b4.bytes ∧
    ¬ LegalRead (BitVec.toNat 0x0001C#20) Size.b4.bytes ∧
    (waiting [.read 0x24000#20 .b2]).inbox = .read 0x24000#20 .b2 :: [] := by
  unfold LegalRead inRam inRom
  refine ⟨?_, ?_, ?_, rfl⟩ <;> decide

/-- Legal reads: the last register, the last byte of the noise ROM, the last word of `T16`. -/
theorem witness_RefusedAccess_legal :
    LegalRead (BitVec.toNat 0x00064#20) Size.b4.bytes ∧
    LegalRead (BitVec.toNat 0x23FFF#20) Size.b1.bytes ∧
    LegalRead (BitVec.toNat 0x9FFFC#20) Size.b4.bytes ∧
    (waiting [.read 0x9FFFC#20 .b4]).inbox = .read 0x9FFFC#20 .b4 :: [] := by
  unfold LegalRead inRam inRom
  refine ⟨?_, ?_, ?_, rfl⟩ <;> decide

theorem witness_RefusedAccess_readOnly :
    0x00018#20 ∈ [0x00000#20, 0x00004#20, 0x00014#20, 0x00018#20] ∧
    (waiting [.write 0x00018#20 .b4 7#32]).inbox = .write 0x00018#20 .b4 7#32 :: [] := ⟨by decide, rfl⟩

/-- A write and the three reads at the ends of the regions, and the last noise cell. -/
theorem witness_LittleEndianMemory :
    inRam (BitVec.toNat 0x9FFFC#20) ∧ BitVec.toNat 0x9FFFC#20 % Size.b4.bytes = 0 ∧
    (waiting [.write 0x9FFFC#20 .b4 0x12345678#32]).inbox = .write 0x9FFFC#20 .b4 0x12345678#32 :: [] ∧
    inRam (BitVec.toNat 0x30FFF#20) ∧
    (waiting [.read 0x30FFF#20 .b1]).inbox = .read 0x30FFF#20 .b1 :: [] ∧
    inRam (BitVec.toNat 0x10000#20) ∧ BitVec.toNat 0x10000#20 % 2 = 0 ∧
    (waiting [.read 0x10000#20 .b2]).inbox = .read 0x10000#20 .b2 :: [] ∧
    inRam (BitVec.toNat 0x47FFC#20) ∧ BitVec.toNat 0x47FFC#20 % 4 = 0 ∧
    (waiting [.read 0x47FFC#20 .b4]).inbox = .read 0x47FFC#20 .b4 :: [] := by
  unfold inRam
  refine ⟨?_, ?_, rfl, ?_, rfl, ?_, ?_, rfl, ?_, ?_, rfl⟩ <;> decide

theorem witness_LittleEndianMemory_noise :
    let s := { waiting [.read 0x23FFE#20 .b2] with noise := flatNoise }
    8191 < 8192 ∧ s.noise[8191]? = some 984#16 ∧ BitVec.toNat 0x23FFE#20 = 0x20000 + 2 * 8191 ∧
      s.inbox = .read 0x23FFE#20 .b2 :: [] :=
  ⟨by decide, by
    show flatNoise[8191]? = _
    unfold flatNoise
    exact List.getElem?_replicate_of_lt (by decide), by decide, rfl⟩

theorem witness_Pix16StoresPixel :
    BitVec.toNat 3#4 < 4 ∧ 4095 < 4096 ∧
    (waiting (assemble [.pix16 3#4 4095 1#16 2#16 3#16 65535#16])).inbox =
      (Stmt.pix16 3#4 4095 1#16 2#16 3#16 65535#16).expand ++ [] := ⟨by decide, by decide, rfl⟩

theorem witness_IrqFollowsFlags :
    ({ State.reset with irqEn := 1#2 } : State).irqEn.getLsbD 0 = true ∧
    (latched [.write 0x00008#20 .b4 3#32]).inbox = .write 0x00008#20 .b4 3#32 :: [] := by
  refine ⟨?_, rfl⟩
  show BitVec.getLsbD 1#2 0 = true
  decide

/-- A `CMD` write of a word with no well-formed instruction, `TCLR16 4`, and both enables set. -/
theorem witness_IrqFollowsFlags_command :
    let s := { waiting [.write 0x00010#20 .b4 0x44000004#32] with irqEn := 3#2 }
    s.inbox = .write 0x00010#20 .b4 0x44000004#32 :: [] ∧ s.status.getLsbD 1 = false ∧
      s.irqEn.getLsbD 0 = true ∧ s.irqEn.getLsbD 1 = true ∧
      ∀ i, decode 0x44000004#32 = .ok i → i.wellFormed = false := by
  refine ⟨rfl, waiting_err [], ?_, ?_, fun i h => ?_⟩
  · show BitVec.getLsbD 3#2 0 = true
    decide
  · show BitVec.getLsbD 3#2 1 = true
    decide
  · have h4 : decode 0x44000004#32 = .ok (.tclr16 4#4) := by decide
    rw [h4] at h
    injection h with h
    rw [← h]
    decide

/-- `TCLR8 0` and a memory that differs outside the slot it names. -/
theorem witness_CommandDependsOnNamedOperands :
    ∀ x, touches (.tclr8 0#4) x → Memory.read [(0x80000, 1#8)] x = State.reset.mem.read x := by
  intro x hx
  rcases hx with ⟨f, hf, h0, h1⟩ | ⟨h, _⟩
  · rw [List.mem_singleton.mp hf] at h0 h1
    have h2 : x < 0x80000 := Nat.lt_trans h1 (by decide)
    show (if 0x80000 = x then 1#8 else 0#8) = 0#8
    rw [if_neg (by omega)]
  · cases h

/-- The first, second and third field. -/
theorem witness_BadSlotReportsFirstField :
    (Instr.strk 1#4 4#4 4#4).slotFields[0]? = some (.sm, 1#4) ∧ MemKind.sm.slots ≤ BitVec.toNat 1#4 ∧
    (Instr.strk 0#4 4#4 4#4).slotFields[1]? = some (.t16, 4#4) ∧
    (Instr.strk 0#4 3#4 4#4).slotFields[2]? = some (.t16, 4#4) ∧
    MemKind.t16.slots ≤ BitVec.toNat 4#4 ∧
    ∀ k, k < 2 → ∀ g, (Instr.strk 0#4 3#4 4#4).slotFields[k]? = some g → g.2.toNat < g.1.slots := by
  refine ⟨rfl, by decide, rfl, rfl, by decide, fun k hk g hg => ?_⟩
  obtain rfl | rfl : k = 0 ∨ k = 1 := by omega
  · cases hg; decide
  · cases hg; decide

theorem witness_PixelCheckAndFaultInfo :
    let f : FaultRec := ⟨.pixPremul, 65535, 3, 3⟩
    f.idx < 2 ^ 16 ∧ f.ch < 4 ∧ f.opnd < 4 := by decide

theorem witness_NopOnlySetsDone :
    (waiting [.write 0x00010#20 .b4 0#32]).inbox = .write 0x00010#20 .b4 0#32 :: [] ∧
    (waiting [.write 0x00010#20 .b4 0#32]).status.getLsbD 1 = false ∧
    (latched [.write 0x00010#20 .b4 0#32]).inbox = .write 0x00010#20 .b4 0#32 :: [] ∧
    (latched [.write 0x00010#20 .b4 0#32]).status.getLsbD 1 = true :=
  ⟨rfl, waiting_err _, rfl, latched_err _⟩

/-- Arguments at the upper end, with `a ≤ a'`. -/
theorem witness_MulLaws : 32767 ≤ 32768 ∧ 32768 ≤ 32768 ∧ 0 ≤ 32768 := by decide

theorem witness_DivLaws : 1 ≤ 1 ∧ 1 ≤ 32768 ∧ 0 < 1 ∧ 32768 ≤ 32768 ∧ 0 < 32768 := by decide

theorem witness_IsqrtIsFloorRoot : 16384 * 16384 ≤ 8192 * 2 ^ 15 := by decide

/-- The two sides of each threshold: 16384 and 8192 for the conditions on `cb` and `cs`, and the ends
0 and 32768. -/
theorem witness_SeparableBlendFormulas :
    16384 ≤ 16384 ∧ 16384 < 16385 ∧ 8192 ≤ 8192 ∧ 8192 < 8193 ∧ 16385 ≤ 32768 ∧ 8193 ≤ 32768 ∧
      0 < 1 ∧ 32767 < 32768 ∧ 0 ≤ 32768 := by decide

theorem witness_BlendRangeLaw :
    let c : Rgb := ⟨32768, 0, 32767⟩
    c.r ≤ 32768 ∧ c.g ≤ 32768 ∧ c.b ≤ 32768 ∧
      blendColor ∈ separable blendNormal :: blendModes.map Prod.snd :=
  ⟨by decide, by decide, by decide, by simp [blendModes]⟩

/-- Colours whose channels are not all equal and, together, every order of two channels. -/
theorem witness_SetSatAndSetLum_orders :
    let c : Rgb := ⟨0, 1, 32768⟩
    let e : Rgb := ⟨2, 1, 0⟩
    ¬ (c.r = c.g ∧ c.g = c.b) ∧ c.r ≤ c.g ∧ c.g ≤ c.b ∧ c.r ≤ c.b ∧
      ¬ (e.r = e.g ∧ e.g = e.b) ∧ e.g ≤ e.r ∧ e.b ≤ e.g ∧ e.b ≤ e.r := by decide

/-- A colour with a greatest and a least channel, and a grey. -/
theorem witness_SetSatAndSetLum_formula :
    min 0 (min 1 32768) < max 0 (max 1 32768) ∧ min 5 (min 5 5) = max 5 (max 5 5) := by decide

/-- The examples of 42_blend_modes.md R176: no clip, the second branch, the first branch; `d` is 5225,
20170, -2605. -/
theorem witness_SetSatAndSetLum_clip :
    lum ⟨0, 8777, 20480⟩ = 7431 ∧ (0 : Int) ≤ 0 + 5225 ∧ (20480 : Int) + 5225 ≤ 32768 ∧
    lum ⟨32768, 0, 0⟩ = 9830 ∧ (32768 : Int) < 32768 + 20170 ∧
    lum ⟨0, 0, 32768⟩ = 3605 ∧ (0 : Int) + -2605 < 0 := by decide

/-- The examples of R175. -/
theorem test_setSat :
    setSat ⟨4096, 16384, 32768⟩ 20480 = ⟨0, 8777, 20480⟩ ∧ setSat ⟨5, 5, 5⟩ 100 = ⟨0, 0, 0⟩ := by
  decide

/-- The examples of R176. -/
theorem test_setLum :
    setLum ⟨0, 8777, 20480⟩ 12656 = ⟨5225, 14002, 25705⟩ ∧
    setLum ⟨32768, 0, 0⟩ 30000 = ⟨32768, 28813, 28813⟩ ∧
    setLum ⟨0, 0, 32768⟩ 1000 = ⟨0, 0, 9089⟩ ∧ setLum ⟨100, 200, 300⟩ 0 = ⟨0, 0, 0⟩ := by
  decide +kernel

theorem witness_NonSeparableGreyCases :
    let c : Rgb := ⟨32768, 0, 1⟩
    c.r ≤ 32768 ∧ c.g ≤ 32768 ∧ c.b ≤ 32768 ∧ 32768 ≤ 32768 := by decide

/-! #### Tiles -/

/-- What a pixel reads after a pixel was stored in the slot or in another. -/
theorem pixel16_set (m : Memory) (s t : Slot) (i j : Nat) (p : Pixel) (hj : j < 4096) (hi : i < 4096)
    (h : t ≠ s ∨ j ≠ i) : (m.setPixel16 s i p).pixel16 t j = m.pixel16 t j := by
  refine Memory.pixel16_congr fun x h0 h1 => Memory.read_setPixel16_other _ _ _ _ _ ?_
  have : t.toNat ≠ s.toNat ∨ j ≠ i := h.imp (fun h e => h (BitVec.eq_of_toNat_eq e)) id
  rw [t16Addr_eq] at *
  omega

/-- Black in every pixel of slots 0 and 1 but the last, which hold `p` and `q`. -/
@[irreducible] def tiles (p q : Pixel) : Memory := (Memory.setPixel16 [] 0#4 4095 p).setPixel16 1#4 4095 q

theorem tiles_zero (p q : Pixel) (t : Slot) (j : Nat) (h : j < 4095) :
    (tiles p q).pixel16 t j = ⟨0, 0, 0, 0⟩ := by
  unfold tiles
  rw [pixel16_set _ _ _ _ _ _ (by omega) (by decide) (.inr (by omega)),
    pixel16_set _ _ _ _ _ _ (by omega) (by decide) (.inr (by omega))]
  rfl

/-- A condition on a whole tile of `tiles`, from black and the last pixel. -/
theorem tiles_all {p q : Pixel} {t : Slot} {P : Pixel → Prop} (h0 : P ⟨0, 0, 0, 0⟩)
    (h : P ((tiles p q).pixel16 t 4095)) : (tiles p q).AllPixels t P := by
  intro i hi
  obtain hl | rfl : i < 4095 ∨ i = 4095 := by omega
  · rw [tiles_zero _ _ _ _ hl]; exact h0
  · exact h

/-- The source and destination of 41_composite.md R150 as the last pixels of slots 0 and 1. -/
def premulTiles : Memory := tiles ⟨8192, 16384, 4096, 24576⟩ ⟨12288, 4096, 16384, 20480⟩

/-- A source, and over it a destination whose colours exceed its alpha cell of 65535 or 0. -/
def opaqueTiles (a : Nat) : Memory := tiles ⟨8192, 16384, 4096, 24576⟩ ⟨10000, 20000, 32768, a⟩

/-- A state with this memory, this opacity and a table in the band. -/
def holding (m : Memory) (op : Half) : State :=
  { State.reset with mem := m, opacity := op, noise := flatNoise }

theorem holding_mem (m : Memory) (op : Half) : (holding m op).mem = m := rfl

theorem holding_opacity (m : Memory) (op : Half) : (holding m op).opacity = op := rfl

theorem holding_noise (m : Memory) (op : Half) : noiseOk (holding m op).noise := flatNoise_ok

theorem premulTiles_premul :
    premulTiles.AllPixels 0#4 Pixel.Premul ∧ premulTiles.AllPixels 1#4 Pixel.Premul :=
  ⟨tiles_all (by unfold Pixel.Premul; decide) (by unfold Pixel.Premul; decide +kernel),
    tiles_all (by unfold Pixel.Premul; decide) (by unfold Pixel.Premul; decide +kernel)⟩

theorem opaqueTiles_range3 : (opaqueTiles 65535).AllPixels 1#4 Pixel.Range3 :=
  tiles_all (by unfold Pixel.Range3; decide) (by unfold Pixel.Range3; decide +kernel)

theorem opaqueTiles_premul (a : Nat) (h : a = 65535 ∨ a = 0) :
    (opaqueTiles a).AllPixels 0#4 Pixel.Premul := by
  rcases h with rfl | rfl <;>
    exact tiles_all (by unfold Pixel.Premul; decide) (by unfold Pixel.Premul; decide +kernel)

/-- Both values of `HA`, at the least and the greatest opacity. -/
theorem witness_CompNormalResult :
    BitVec.toNat 1#4 < 4 ∧ BitVec.toNat 0#4 < 4 ∧
    1 ≤ (holding premulTiles 1#16).opacity.toNat ∧
    (holding premulTiles 1#16).opacity.toNat ≤ 32768 ∧
    (holding premulTiles 1#16).mem.AllPixels 0#4 Pixel.Premul ∧
    (holding premulTiles 1#16).mem.AllPixels 1#4 (Pixel.CompDst true) ∧
    (holding (opaqueTiles 65535) 32768#16).opacity.toNat = 32768 ∧
    (holding (opaqueTiles 65535) 32768#16).mem.AllPixels 0#4 Pixel.Premul ∧
    (holding (opaqueTiles 65535) 32768#16).mem.AllPixels 1#4 (Pixel.CompDst false) :=
  ⟨by decide, by decide, by decide, by decide, premulTiles_premul.1, premulTiles_premul.2, by decide,
    opaqueTiles_premul _ (.inl rfl), opaqueTiles_range3⟩

/-- The same, for the fifteen modes of `blendModes`. -/
theorem witness_CompBlendResult :
    (.compLuminosity, blendLuminosity) ∈ blendModes ∧
    1 ≤ (holding premulTiles 1#16).opacity.toNat ∧
    (holding premulTiles 1#16).opacity.toNat ≤ 32768 ∧
    (holding premulTiles 1#16).mem.AllPixels 0#4 Pixel.Premul ∧
    (holding premulTiles 1#16).mem.AllPixels 1#4 (Pixel.CompDst true) ∧
    (holding (opaqueTiles 65535) 32768#16).opacity.toNat = 32768 ∧
    (holding (opaqueTiles 65535) 32768#16).mem.AllPixels 0#4 Pixel.Premul ∧
    (holding (opaqueTiles 65535) 32768#16).mem.AllPixels 1#4 (Pixel.CompDst false) :=
  ⟨by simp [blendModes], by decide, by decide, premulTiles_premul.1, premulTiles_premul.2, by decide,
    opaqueTiles_premul _ (.inl rfl), opaqueTiles_range3⟩

/-- A word with opacity 0 that decodes to nothing: `COMP.NORMAL` with a bit of `Z1` set. -/
theorem witness_CompOpacityZero_illegal :
    (waiting [.write 0x00010#20 .b4 0x10020001#32]).opacity = 0#16 ∧
    (waiting [.write 0x00010#20 .b4 0x10020001#32]).status.getLsbD 1 = false ∧
    (∀ i, decode 0x10020001#32 ≠ .ok i) ∧
    (waiting [.write 0x00010#20 .b4 0x10020001#32]).inbox = .write 0x00010#20 .b4 0x10020001#32 :: [] :=
  ⟨rfl, waiting_err _, fun _ h => (nomatch test_reject_z1.symm.trans h), rfl⟩

/-- Slots that exist, a bad `SA`, a bad `SB`. -/
theorem witness_CompOpacityZero :
    (.compNormal, normalResult) ∈ compModes ∧ (holding premulTiles 0#16).opacity = 0#16 ∧
    (BitVec.toNat 3#4 < 4 ∧ BitVec.toNat 3#4 < 4) ∧ ¬ (BitVec.toNat 4#4 < 4 ∧ BitVec.toNat 4#4 < 4) ∧
    ¬ (BitVec.toNat 3#4 < 4 ∧ BitVec.toNat 4#4 < 4) :=
  ⟨by simp [compModes], rfl, by decide, by decide, by decide⟩

theorem witness_CompKeepsTileInvariant :
    (.compNormal, normalResult) ∈ compModes ∧ 32768 ≤ 32768 ∧
    Pixel.Premul ⟨32768, 0, 1, 32768⟩ ∧ Pixel.Range3 ⟨32768, 0, 1, 65535⟩ :=
  ⟨by simp [compModes], by decide, by unfold Pixel.Premul; decide, by unfold Pixel.Range3; decide⟩

theorem witness_CompOverTransparentIsSource :
    (.compNormal, normalResult) ∈ compModes ∧ BitVec.toNat 2#4 < 4 ∧ BitVec.toNat 0#4 < 4 ∧
    (holding premulTiles 32768#16).opacity = 32768#16 ∧
    (holding premulTiles 32768#16).mem.AllPixels 0#4 Pixel.Premul ∧
    (holding premulTiles 32768#16).mem.AllPixels 2#4 (fun D => D = ⟨0, 0, 0, 0⟩) :=
  ⟨by simp [compModes], by decide, by decide, rfl, premulTiles_premul.1,
    tiles_all rfl (by decide +kernel)⟩

/-- The pixels before the last are black, and pass every check. -/
theorem witness_CompFaultIsPrecise_before (p q : Pixel) (ha : Bool) :
    ∀ j, j < 4095 →
      ((tiles p q).pixel16 0#4 j).Premul ∧ ((tiles p q).pixel16 1#4 j).CompDst ha := by
  intro j hj
  rw [tiles_zero _ _ _ _ hj, tiles_zero _ _ _ _ hj]
  cases ha <;> simp [Pixel.Premul, Pixel.CompDst, Pixel.Range3]

/-- The source's alpha out of range at the last pixel. -/
theorem witness_CompFaultIsPrecise_source :
    ((tiles ⟨0, 0, 0, 32769⟩ stop).pixel16 0#4 4095).check .premul .b 4095 =
      some ⟨.pixRange, 4095, 3, 1⟩ ∧
    1 ≤ (holding (tiles ⟨0, 0, 0, 32769⟩ stop) 1#16).opacity.toNat ∧
    (holding (tiles ⟨0, 0, 0, 32769⟩ stop) 1#16).opacity.toNat ≤ 32768 := by decide +kernel

/-- The source right and the destination not, with and without alpha. -/
theorem witness_CompFaultIsPrecise_destination :
    ((tiles ⟨0, 0, 0, 0⟩ ⟨0, 32769, 0, 0⟩).pixel16 0#4 4095).Premul ∧
    ((tiles ⟨0, 0, 0, 0⟩ ⟨0, 32769, 0, 0⟩).pixel16 1#4 4095).check .range3 .a 4095 =
      some ⟨.pixRange, 4095, 1, 0⟩ ∧
    ((tiles ⟨0, 0, 0, 0⟩ ⟨5, 5, 6, 5⟩).pixel16 0#4 4095).Premul ∧
    ((tiles ⟨0, 0, 0, 0⟩ ⟨5, 5, 6, 5⟩).pixel16 1#4 4095).check .premul .a 4095 =
      some ⟨.pixPremul, 4095, 2, 0⟩ := by
  unfold Pixel.Premul
  decide +kernel

/-! #### Masks -/

/-- A mask of two runs: `1, 32768, 0, 4093, 7, 0, 0`, the last pixel visited among them. -/
def endsMask : MaskTree := ⟨[([1, 32768], 4093)], [7]⟩

def endsVisits : List (Nat × Nat) := [(0, 1), (1, 32768), (4095, 7)]

/-- That mask, over a premultiplied pixel 0 of slot 1 and a last pixel as in 43_dab.md R210. -/
def endsState : State :=
  { State.reset with
    opacity := 26214#16, colorR := 32768#16, colorA := 32768#16
    mem := [(0x10000, 1#8), (0x10003, 128#8), (0x10006, 0xFD#8), (0x10007, 0x0F#8), (0x10008, 7#8),
      (0x88006, 5#8), (0x8FFF9, 48#8), (0x8FFFB, 16#8), (0x8FFFD, 64#8), (0x8FFFF, 80#8)] }

theorem witness_WellFormedMaskVisitsItsRuns :
    endsMask.Ok ∧ endsState.mem.HoldsMask endsMask ∧ endsMask.visits = endsVisits := by
  refine ⟨by unfold MaskTree.Ok; decide, ?_, by decide⟩
  intro j hj
  have h : ∀ j, j < 7 → endsState.mem.mask j = endsMask.words.getD j 0 := by decide +kernel
  exact h j hj

theorem endsState_ends : MaskEnds endsState.mem.mask endsVisits := by
  have h0 : MaskReach endsState.mem.mask 2 2 ([] ++ [(0, 1)] ++ [(1, 32768)]) :=
    .value 1 1 _ (.value 0 0 _ .start (by decide) (by decide +kernel) (by decide +kernel) (by decide))
      (by decide) (by decide +kernel) (by decide +kernel) (by decide)
  have h1 : MaskReach endsState.mem.mask 4 4095 ([] ++ [(0, 1)] ++ [(1, 32768)]) :=
    .skip 2 2 _ h0 (by decide) (by decide +kernel) (by decide +kernel) (by decide +kernel)
  have h2 : MaskReach endsState.mem.mask 5 4096 endsVisits :=
    .value 4 4095 _ h1 (by decide) (by decide +kernel) (by decide +kernel) (by decide)
  exact ⟨5, 4096, h2, by decide, by decide +kernel, by decide +kernel⟩

/-- The hypotheses of the three paint statements. -/
theorem witness_DabnResult :
    BitVec.toNat 1#4 < 4 ∧ endsState.ScalarsLegal ∧ MaskEnds endsState.mem.mask endsVisits ∧
      endsState.mem.VisitedPixels 1#4 endsVisits Pixel.Premul :=
  ⟨by decide, by unfold State.ScalarsLegal; decide +kernel, endsState_ends,
    by unfold Memory.VisitedPixels Pixel.Premul; decide +kernel⟩

theorem witness_DabeResult :
    BitVec.toNat 1#4 < 4 ∧ endsState.ScalarsLegal ∧ MaskEnds endsState.mem.mask endsVisits ∧
      endsState.mem.VisitedPixels 1#4 endsVisits Pixel.Premul := witness_DabnResult

theorem witness_DablResult :
    BitVec.toNat 1#4 < 4 ∧ endsState.ScalarsLegal ∧ MaskEnds endsState.mem.mask endsVisits ∧
      endsState.mem.VisitedPixels 1#4 endsVisits Pixel.Premul := witness_DabnResult

theorem witness_AccumulatorCommit :
    BitVec.toNat 1#4 < 4 ∧ MaskEnds endsState.mem.mask endsVisits ∧
      endsState.mem.VisitedPixels 1#4 endsVisits Pixel.Range4 :=
  ⟨by decide, endsState_ends, by unfold Memory.VisitedPixels Pixel.Range4; decide +kernel⟩

/-- A traversal that does not complete: the first mask word is above 32768. -/
theorem witness_AccumulatorCommit_fault :
    ¬ (BitVec.toNat 1#4 < 4 ∧ ∃ visits, MaskEnds (Memory.mask [(0x10000, 1#8), (0x10001, 128#8)]) visits ∧
        Memory.VisitedPixels [(0x10000, 1#8), (0x10001, 128#8)] 1#4 visits Pixel.Range4) := by
  have h0 : Memory.mask [(0x10000, 1#8), (0x10001, 128#8)] 0 = 32769 := by decide +kernel
  have reach : ∀ m p v, MaskReach (Memory.mask [(0x10000, 1#8), (0x10001, 128#8)]) m p v → m = 0 := by
    intro m p v h
    induction h with
    | start => rfl
    | value m p v h i n l r ih => subst ih; omega
    | skip m p v h i n l r ih => subst ih; omega
  rintro ⟨_, visits, ⟨m, p, h, _, hz, _⟩, _⟩
  rw [reach m p visits h] at hz
  omega

theorem witness_AccumulatorCommit_other : ∀ sa, Instr.dabl 3#4 ≠ .dabacc sa := fun _ h => by cases h

/-- `n` skips of one pixel, from the cell at offset `a` on. -/
def skipCells : Nat → Nat → Memory
  | _, 0 => []
  | a, n + 1 => (a + 2, 1#8) :: skipCells (a + 4) n

theorem read_skipCells (n : Nat) : ∀ a x : Nat, (skipCells a n).read x =
    if a ≤ x ∧ x < a + 4 * n ∧ (x - a) % 4 = 2 then 1#8 else 0#8 := by
  induction n with
  | zero => intro a x; rw [if_neg (by omega)]; rfl
  | succ n ih =>
    intro a x
    show (if a + 2 = x then 1#8 else (skipCells (a + 4) n).read x) = _
    rw [ih]
    by_cases h : a + 2 = x
    · rw [if_pos h, if_pos (by omega)]
    · rw [if_neg h]
      by_cases h2 : a + 4 ≤ x ∧ x < a + 4 + 4 * n ∧ (x - (a + 4)) % 4 = 2
      · rw [if_pos h2, if_pos (by omega)]
      · rw [if_neg h2, if_neg (by omega)]

/-- 4096 skips of one pixel fill `MASK`: word 8192, outside the memory, is reached. -/
theorem skips_reach : MaskReach (Memory.mask (skipCells 0x10000 4096)) 8192 4096 [] := by
  have hm : ∀ k, k < 4096 → (skipCells 0x10000 4096).mask (2 * k) = 0 ∧
      (skipCells 0x10000 4096).mask (2 * k + 1) = 1 := by
    intro k hk
    unfold Memory.mask Memory.read16 Memory.read8
    simp only [maskAddr_eq, read_skipCells]
    rw [if_neg (by omega), if_neg (by omega), if_pos (by omega), if_neg (by omega)]
    decide
  have h : ∀ n, n ≤ 4096 → MaskReach (Memory.mask (skipCells 0x10000 4096)) (2 * n) n [] := by
    intro n
    induction n with
    | zero => intro _; exact .start
    | succ n ih =>
      intro hn
      have hw := hm n (by omega)
      have := MaskReach.skip (mask := Memory.mask (skipCells 0x10000 4096)) (2 * n) n [] (ih (by omega))
        (by omega) hw.1 (by omega) (by omega)
      rwa [hw.2] at this
  exact h 4096 (Nat.le_refl _)

/-- One value, then 4095 skips of one pixel: the last word is a sentinel with no skip count. -/
def lastSentinel : Memory := (0x10000, 1#8) :: skipCells 0x10002 4095

theorem lastSentinel_reach :
    MaskReach lastSentinel.mask 8191 4096 [(0, 1)] ∧ lastSentinel.mask 8191 = 0 := by
  have hr : ∀ x, x ≠ 0x10000 → lastSentinel.read x = (skipCells 0x10002 4095).read x := by
    intro x hx
    show (if 0x10000 = x then 1#8 else _) = _
    rw [if_neg (by omega)]
  have hm : ∀ k, k < 4095 → lastSentinel.mask (2 * k + 1) = 0 ∧ lastSentinel.mask (2 * k + 2) = 1 := by
    intro k hk
    unfold Memory.mask Memory.read16 Memory.read8
    simp only [maskAddr_eq]
    rw [hr _ (by omega), hr _ (by omega), hr _ (by omega), hr _ (by omega)]
    simp only [read_skipCells]
    rw [if_neg (by omega), if_neg (by omega), if_pos (by omega), if_neg (by omega)]
    decide
  have h : ∀ n, n ≤ 4095 → MaskReach lastSentinel.mask (2 * n + 1) (n + 1) [(0, 1)] := by
    intro n
    induction n with
    | zero =>
      intro _
      have h0 : lastSentinel.mask 0 = 1 := by
        have e0 : lastSentinel.read (0x10000 + 2 * 0) = 1#8 := if_pos (by decide)
        have e1 : lastSentinel.read (0x10000 + 2 * 0 + 1) = 0#8 := by
          rw [hr _ (by decide), read_skipCells, if_neg (by decide)]
        unfold Memory.mask Memory.read16 Memory.read8
        rw [maskAddr_eq, e0, e1]
        decide
      have := MaskReach.value (mask := lastSentinel.mask) 0 0 [] .start (by decide) (by omega) (by omega)
        (by decide)
      rwa [h0] at this
    | succ n ih =>
      intro hn
      have hw := hm n (by omega)
      have := MaskReach.skip (mask := lastSentinel.mask) (2 * n + 1) (n + 1) [(0, 1)] (ih (by omega))
        (by omega) hw.1 (by rw [hw.2]) (by rw [hw.2]; omega)
      rwa [hw.2] at this
  refine ⟨h 4095 (Nat.le_refl _), ?_⟩
  unfold Memory.mask Memory.read16 Memory.read8
  simp only [maskAddr_eq]
  rw [hr _ (by omega), hr _ (by omega)]
  simp only [read_skipCells]
  rw [if_neg (by omega), if_neg (by omega)]
  decide

/-- The three paint commands, over a state with this memory and legal scalar registers. -/
theorem witness_MaskFaults_paint (m : Memory) :
    paintModes.map (fun c => c.1 3#4) = [.dabn 3#4, .dabe 3#4, .dabl 3#4] ∧
      ({ endsState with mem := m } : State).ScalarsLegal :=
  ⟨rfl, witness_DabnResult.2.1⟩

/-- Past the last word. -/
theorem witness_MaskFaults_overrun :
    MaskReach (Memory.mask (skipCells 0x10000 4096)) 8192 4096 [] ∧
      Memory.VisitedPixels (skipCells 0x10000 4096) 0#4 [] Pixel.Premul ∧
      Memory.VisitedPixels (skipCells 0x10000 4096) 0#4 [] Pixel.Range4 :=
  ⟨skips_reach, fun _ h => (nomatch h), fun _ h => (nomatch h)⟩

/-- A value above 32768 at word 0. -/
theorem witness_MaskFaults_value :
    MaskReach (Memory.mask [(0x10000, 1#8), (0x10001, 128#8)]) 0 0 [] ∧ 0 < 8192 ∧
      Memory.mask [(0x10000, 1#8), (0x10001, 128#8)] 0 > 32768 := ⟨.start, by decide, by decide +kernel⟩

/-- A value with the cursor past the tile: `0, 4096, 32768`. -/
theorem witness_MaskFaults_range :
    let m : Memory := [(0x10003, 16#8), (0x10005, 128#8)]
    MaskReach m.mask 2 4096 [] ∧ 2 < 8192 ∧ 1 ≤ m.mask 2 ∧ m.mask 2 ≤ 32768 :=
  ⟨.skip 0 0 [] .start (by decide) (by decide +kernel) (by decide +kernel) (by decide +kernel),
    by decide, by decide +kernel, by decide +kernel⟩

theorem lastSentinel_black : lastSentinel.pixel16 0#4 0 = ⟨0, 0, 0, 0⟩ := by
  have h : lastSentinel.pixel16 0#4 0 = Memory.pixel16 [] 0#4 0 := by
    refine Memory.pixel16_congr fun x h0 _ => ?_
    have h0 : 0x80000 ≤ x := h0
    show (if 0x10000 = x then 1#8 else (skipCells 0x10002 4095).read x) = 0#8
    rw [if_neg (by omega), read_skipCells, if_neg (by omega)]
  exact h

/-- A sentinel in the last word. -/
theorem witness_MaskFaults_sentinel :
    MaskReach lastSentinel.mask 8191 4096 [(0, 1)] ∧ lastSentinel.mask 8191 = 0 ∧
      lastSentinel.VisitedPixels 0#4 [(0, 1)] Pixel.Premul ∧
      lastSentinel.VisitedPixels 0#4 [(0, 1)] Pixel.Range4 := by
  refine ⟨lastSentinel_reach.1, lastSentinel_reach.2, fun e he => ?_, fun e he => ?_⟩ <;>
    rw [List.mem_singleton.mp he, lastSentinel_black]
  · unfold Pixel.Premul; decide
  · unfold Pixel.Range4; decide

/-- A skip one pixel too far: `0, 4097`. -/
theorem witness_MaskFaults_skip :
    let m : Memory := [(0x10002, 1#8), (0x10003, 16#8)]
    MaskReach m.mask 0 0 [] ∧ 0 < 8191 ∧ m.mask 0 = 0 ∧ 1 ≤ m.mask 1 ∧ 0 + m.mask 1 > 4096 :=
  ⟨.start, by decide, by decide +kernel, by decide +kernel, by decide +kernel⟩

/-- The mask `1, 0, 4094, 32768` over a right pixel 0 and a last pixel whose alpha is 32769, or whose
blue is above its alpha. -/
def badLast (a b : Byte) : Memory :=
  [(0x10000, 1#8), (0x10004, 0xFE#8), (0x10005, 0x0F#8), (0x10007, 128#8), (0x87FFC, b),
    (0x87FFE, a), (0x87FFF, 128#8)]

theorem witness_DabPixelFaults :
    let m := badLast 1#8 5#8
    MaskReach m.mask 3 4095 [(0, 1)] ∧ 3 < 8192 ∧ 1 ≤ m.mask 3 ∧ m.mask 3 ≤ 32768 ∧ 4095 < 4096 ∧
      m.VisitedPixels 0#4 [(0, 1)] Pixel.Premul ∧
      (m.pixel16 0#4 4095).check .premul .a 4095 = some ⟨.pixRange, 4095, 3, 0⟩ ∧
      m.VisitedPixels 0#4 [(0, 1)] Pixel.Range4 ∧
      (m.pixel16 0#4 4095).check .range4 .a 4095 = some ⟨.pixRange, 4095, 3, 0⟩ := by
  have h : MaskReach (badLast 1#8 5#8).mask 1 1 [(0, 1)] :=
    .value 0 0 [] .start (by decide) (by decide +kernel) (by decide +kernel) (by decide)
  refine ⟨.skip 1 1 _ h (by decide) (by decide +kernel) (by decide +kernel) (by decide +kernel),
    by decide, by decide +kernel, by decide +kernel, by decide, ?_, by decide +kernel, ?_,
    by decide +kernel⟩
  · unfold Memory.VisitedPixels Pixel.Premul; decide +kernel
  · unfold Memory.VisitedPixels Pixel.Range4; decide +kernel

theorem witness_DabeAtFullAlphaIsDabn : endsState.colorA = 32768#16 := by decide

theorem witness_DablNeverChangesAlpha : BitVec.toNat 3#4 < 4 ∧ 4095 < 4096 := by decide

/-! #### Converters, flatten, downscale, stroke -/

theorem witness_Cv16to8Result :
    BitVec.toNat 1#4 < 2 ∧ BitVec.toNat 0#4 < 4 ∧ noiseOk (holding premulTiles 0#16).noise ∧
      (holding premulTiles 0#16).mem.AllPixels 0#4 Pixel.Premul :=
  ⟨by decide, by decide, flatNoise_ok, premulTiles_premul.1⟩

theorem witness_Cv16to8xResult :
    BitVec.toNat 1#4 < 2 ∧ BitVec.toNat 1#4 < 4 ∧ noiseOk (holding (opaqueTiles 65535) 0#16).noise ∧
      (holding (opaqueTiles 65535) 0#16).mem.AllPixels 1#4 Pixel.Range3 :=
  ⟨by decide, by decide, flatNoise_ok, opaqueTiles_range3⟩

theorem witness_Cv8to16Result : BitVec.toNat 3#4 < 4 ∧ BitVec.toNat 1#4 < 2 := by decide

/-- Alphas on both sides of each bound, and samples at the ends of the band. -/
theorem witness_RoundTripLaw :
    (∀ a ∈ [0, 1, 36, 37, 255],
      let P : Pixel := ⟨255, 0, 1, a⟩
      P.r ≤ 255 ∧ P.g ≤ 255 ∧ P.b ≤ 255 ∧ P.a ≤ 255) ∧
    984 ≤ 984 ∧ 984 ≤ 31784 ∧ 31784 ≤ 31784 := by decide

theorem witness_RoundTripTile :
    BitVec.toNat 3#4 < 4 ∧ BitVec.toNat 0#4 < 2 ∧ BitVec.toNat 1#4 < 2 ∧
      noiseOk ({ copyState with noise := flatNoise } : State).noise ∧ 4095 < 4096 ∧
      37 ≤ (({ copyState with noise := flatNoise } : State).mem.pixel8 1#4 4095).a :=
  ⟨by decide, by decide, by decide, flatNoise_ok, by decide, by decide +kernel⟩

theorem witness_CopyAndClearResult :
    BitVec.toNat 3#4 < 4 ∧ BitVec.toNat 0#4 < 4 ∧ BitVec.toNat 1#4 < 2 ∧ BitVec.toNat 0#4 < 2 := by
  decide

/-- The background is slot 1, the layer slot 0. -/
theorem witness_FlatResult :
    BitVec.toNat 0#4 < 4 ∧ BitVec.toNat 1#4 < 4 ∧
      (holding (opaqueTiles 65535) 0#16).mem.AllPixels 1#4 Pixel.Range3 ∧
      (holding (opaqueTiles 65535) 0#16).mem.AllPixels 0#4 Pixel.Premul :=
  ⟨by decide, by decide, opaqueTiles_range3, opaqueTiles_premul _ (.inl rfl)⟩

/-- The background is slot 0; the layer's alpha is 0 and its colours are not. -/
theorem witness_UnflatResult :
    (holding (opaqueTiles 0) 0#16).mem.AllPixels 0#4 Pixel.Range3 ∧
      (holding (opaqueTiles 0) 0#16).mem.AllPixels 1#4 Pixel.Range4 :=
  ⟨tiles_all (by unfold Pixel.Range3; decide) (by unfold Pixel.Range3; decide +kernel),
    tiles_all (by unfold Pixel.Range4; decide) (by unfold Pixel.Range4; decide +kernel)⟩

/-- An alpha that is not 0, and one that is. -/
theorem witness_FlatAfterUnflat :
    Pixel.Range3 ⟨32768, 0, 1, 65535⟩ ∧ Pixel.Range4 ⟨0, 32768, 1, 0⟩ ∧
    (unflatResult ⟨32768, 0, 1, 65535⟩ ⟨0, 32768, 1, 0⟩).a ≠ 0 ∧
    (unflatResult ⟨5, 6, 7, 0⟩ ⟨5, 6, 7, 0⟩).a = 0 ∧
    alphaUnsaturated 0 32768 = 32768 ∧ alphaUnsaturated 32768 0 = 32768 := by
  unfold Pixel.Range3 Pixel.Range4
  decide

/-- A bound on the recovered alpha, and an exact background. -/
theorem witness_UnflatAfterFlat :
    Pixel.Range3 ⟨1, 0, 32768, 0⟩ ∧ Pixel.Premul ⟨32768, 0, 1, 32768⟩ ∧
    (1 > 0 → (32767 + (1 - 1)) / 1 ≤ 32767) ∧ (32768 > 0 → (32767 + (32768 - 1)) / 32768 ≤ 32767) ∧
    Pixel.Range3 ⟨32768, 0, 32768, 0⟩ := by
  unfold Pixel.Range3 Pixel.Premul
  decide

/-- The last quadrant of the target. -/
theorem witness_DownsResult :
    let s := { holding premulTiles 0#16 with dstX := 32#16, dstY := 32#16 }
    BitVec.toNat 3#4 < 4 ∧ BitVec.toNat 0#4 < 4 ∧ 3#4 ≠ 0#4 ∧ s.dstX.toNat ≤ 32 ∧
      s.dstY.toNat ≤ 32 ∧ s.mem.AllPixels 0#4 Pixel.Range4 :=
  ⟨by decide, by decide, by decide, by decide, by decide,
    tiles_all (by unfold Pixel.Range4; decide) (by unfold Pixel.Range4; decide +kernel)⟩

/-- A uniform source. -/
theorem witness_DownsResult_uniform :
    (holding premulTiles 0#16).mem.AllPixels 2#4 (fun p => p = ⟨0, 0, 0, 0⟩) ∧
    (holding premulTiles 0#16).mem.AllPixels 2#4 Pixel.Range4 :=
  ⟨tiles_all rfl (by decide +kernel),
    tiles_all (by unfold Pixel.Range4; decide) (by unfold Pixel.Range4; decide +kernel)⟩

/-- The three pre-checks. -/
theorem witness_DownsFaults_before :
    (1#4 = 1#4 ∧ BitVec.toNat 1#4 < 4) ∧ 32 < ({ State.reset with dstX := 33#16 } : State).dstX.toNat ∧
    32 < ({ State.reset with dstY := 33#16 } : State).dstY.toNat := by decide

/-- The last sample of the last window position is out of range. -/
theorem witness_DownsFaults_sample :
    let m := tiles ⟨0, 0, 0, 32769⟩ stop
    1#4 ≠ 0#4 ∧ 1023 < 1024 ∧
    (∀ v, v < 1023 → ∀ dx dy, dx < 2 → dy < 2 →
      (m.pixel16 0#4 ((2 * (v / 32) + dy) * 64 + (2 * (v % 32) + dx))).Range4) ∧
    [(0, 0), (1, 0), (0, 1), (1, 1)].findSome? (fun d : Nat × Nat =>
      (m.pixel16 0#4 ((2 * (1023 / 32) + d.2) * 64 + (2 * (1023 % 32) + d.1))).check .range4 .b
        ((2 * (1023 / 32) + d.2) * 64 + (2 * (1023 % 32) + d.1))) =
      some ⟨.pixRange, 4095, 3, 1⟩ := by
  refine ⟨by decide, by decide, fun v hv dx dy hx hy => ?_, by decide +kernel⟩
  rw [tiles_zero _ _ _ _ (by omega)]
  unfold Pixel.Range4
  decide

theorem witness_StrkResult :
    BitVec.toNat 0#4 < 1 ∧ BitVec.toNat 0#4 < 4 ∧ BitVec.toNat 1#4 < 4 ∧
      (holding premulTiles 0#16).mem.AllPixels 0#4 Pixel.Range4 ∧
      (holding premulTiles 0#16).mem.AllPixels 1#4 Pixel.Range4 :=
  ⟨by decide, by decide, by decide,
    tiles_all (by unfold Pixel.Range4; decide) (by unfold Pixel.Range4; decide +kernel),
    tiles_all (by unfold Pixel.Range4; decide) (by unfold Pixel.Range4; decide +kernel)⟩

/-- A flagged pixel, one that is not, an equal one, and an alpha that jumps. -/
theorem witness_StrkResult_pixels :
    StrokeFlagged ⟨0, 0, 0, 2000⟩ ⟨0, 0, 0, 3001⟩ ∧ ¬ StrokeFlagged ⟨0, 0, 0, 2000⟩ ⟨0, 0, 0, 3000⟩ ∧
    (tiles ⟨0, 0, 0, 0⟩ ⟨9, 9, 9, 32768⟩).pixel16 0#4 0 =
      (tiles ⟨0, 0, 0, 0⟩ ⟨9, 9, 9, 32768⟩).pixel16 1#4 0 ∧
    ((tiles ⟨0, 0, 0, 0⟩ ⟨9, 9, 9, 32768⟩).pixel16 0#4 4095).a = 0 ∧
    ((tiles ⟨0, 0, 0, 0⟩ ⟨9, 9, 9, 32768⟩).pixel16 1#4 4095).a = 32768 := by
  unfold StrokeFlagged
  decide +kernel

/-- The pixels before the last pass every check; a table in the band. -/
theorem witness_ScanFaultIsPrecise_before (p q : Pixel) : ∀ t : Slot, ∀ j, j < 4095 →
    ((tiles p q).pixel16 t j).Premul ∧ ((tiles p q).pixel16 t j).Range3 ∧
      ((tiles p q).pixel16 t j).Range4 := by
  intro t j hj
  rw [tiles_zero _ _ _ _ hj]
  simp [Pixel.Premul, Pixel.Range3, Pixel.Range4]

/-- `CV16TO8`, `CV16TO8X`, and the first operand of `FLAT`, `UNFLAT`, `STRK`: slot 0 is `SB`. -/
theorem witness_ScanFaultIsPrecise_first :
    BitVec.toNat 1#4 < 2 ∧ noiseOk (holding (tiles ⟨6, 0, 0, 5⟩ stop) 0#16).noise ∧
    ((holding (tiles ⟨6, 0, 0, 5⟩ stop) 0#16).mem.pixel16 0#4 4095).check .premul .b 4095 =
      some ⟨.pixPremul, 4095, 0, 1⟩ ∧
    ((tiles ⟨0, 0, 32769, 5⟩ stop).pixel16 0#4 4095).check .range3 .b 4095 =
      some ⟨.pixRange, 4095, 2, 1⟩ ∧
    ((tiles ⟨0, 0, 0, 32769⟩ stop).pixel16 0#4 4095).check .range4 .b 4095 =
      some ⟨.pixRange, 4095, 3, 1⟩ :=
  ⟨by decide, flatNoise_ok, by decide +kernel, by decide +kernel, by decide +kernel⟩

/-- The second operand of `FLAT`, `UNFLAT`, `STRK` in slot 1, the first one right. -/
theorem witness_ScanFaultIsPrecise_second :
    let m := tiles ⟨32768, 0, 0, 32768⟩ ⟨6, 0, 0, 5⟩
    let n := tiles ⟨32768, 0, 0, 32768⟩ ⟨0, 0, 0, 32769⟩
    (m.pixel16 0#4 4095).Range3 ∧
    (m.pixel16 1#4 4095).check .premul .a 4095 = some ⟨.pixPremul, 4095, 0, 0⟩ ∧
    (n.pixel16 0#4 4095).Range3 ∧ (n.pixel16 0#4 4095).Range4 ∧
    (n.pixel16 1#4 4095).check .range4 .a 4095 = some ⟨.pixRange, 4095, 3, 0⟩ ∧
    (n.pixel16 1#4 4095).check .range4 .c 4095 = some ⟨.pixRange, 4095, 3, 2⟩ := by
  unfold Pixel.Range3 Pixel.Range4
  decide +kernel

end Sys2Proof.Tests
end

section
/-! PROOFS. The register side of the host port: what a step serving a register write does, and the
legalised registers (10_state.md R33). -/

namespace Sys2Proof.Machine

open Sys2Proof

/-! ### Transactions at a register -/

/-- A 4-byte write at a register is answered `OK` and is the register's own write (20_memory.md R83). -/
theorem step_write_reg {s : State} {a : Addr} {v : Word} {rest : List HostEvent} {r : Reg}
    (hin : s.inbox = .write a .b4 v :: rest) (hr : Reg.ofAddr a.toNat = some r) :
    step s = State.writeReg { s with inbox := rest, answer := .ok } v r := by
  have hpop : s.pop = { s with inbox := rest } := by rw [State.pop, hin, List.tail_cons]
  simp only [step, hin, hpop, State.serve, State.hostWrite, hr, if_true, State.answered]

/-- A 4-byte read at a register answers the register's value (20_memory.md R83). -/
theorem State.hostRead_reg (s : State) {a : Nat} {r : Reg} (hr : Reg.ofAddr a = some r) :
    s.hostRead a .b4 = .data (s.readReg r) := by
  simp only [State.hostRead, hr, if_true]

/-! ### Legalisation -/

theorem legalise_toNat (w : Word) : (legalise w).toNat = min w.toNat 32768 := by
  have hone : Config.one = 32768 := rfl
  rw [legalise, hone, BitVec.toNat_ofNat]
  omega

theorem legalise_setWidth (w : Word) :
    (legalise w).setWidth 32 = BitVec.ofNat 32 (min w.toNat 32768) := by
  rw [← legalise_toNat, BitVec.ofNat_toNat]

/-- The state with `v` in the legalised register at offset `a`. -/
def State.withScalar (s : State) (a : Addr) (v : Half) : State :=
  { s with opacity := if a = 0x00020#20 then v else s.opacity,
           colorR := if a = 0x00024#20 then v else s.colorR,
           colorG := if a = 0x00028#20 then v else s.colorG,
           colorB := if a = 0x0002C#20 then v else s.colorB,
           colorA := if a = 0x00030#20 then v else s.colorA }

/-- At each of the five offsets stands a register whose write stores the legalised value and whose
read is the value stored, zero-extended. -/
theorem scalarReg_at {a : Addr}
    (ha : a ∈ [0x00020#20, 0x00024#20, 0x00028#20, 0x0002C#20, 0x00030#20]) :
    ∃ r, Reg.ofAddr a.toNat = some r ∧
      (∀ (s : State) (w : Word), s.writeReg w r = .next (s.withScalar a (legalise w))) ∧
      (∀ (s : State) (v : Half), (s.withScalar a v).readReg r = v.setWidth 32) := by
  simp only [List.mem_cons, List.not_mem_nil, or_false] at ha
  obtain rfl | rfl | rfl | rfl | rfl := ha
  · exact ⟨.opacity, rfl, fun _ _ => rfl, fun _ _ => rfl⟩
  · exact ⟨.colorR, rfl, fun _ _ => rfl, fun _ _ => rfl⟩
  · exact ⟨.colorG, rfl, fun _ _ => rfl, fun _ _ => rfl⟩
  · exact ⟨.colorB, rfl, fun _ _ => rfl, fun _ _ => rfl⟩
  · exact ⟨.colorA, rfl, fun _ _ => rfl, fun _ _ => rfl⟩

/-- Settles O13: the step is the register's write, which stores the legalised word, and reading the
same register gives it back. -/
theorem scalarRegistersLegalise : Obligations.ScalarRegistersLegalise := by
  unfold Obligations.ScalarRegistersLegalise
  intro s w rest a ha hin
  obtain ⟨r, hr, hwrite, hread⟩ := scalarReg_at ha
  refine ⟨State.withScalar { s with inbox := rest, answer := .ok } a (legalise w), legalise w,
    legalise_toNat w, ?_, ?_, rfl⟩
  · rw [step_write_reg hin hr, hwrite]
  · rw [State.hostRead_reg _ hr, hread, legalise_setWidth]

end Sys2Proof.Machine
end

section
/-! PROOFS. Which accesses of the host port are legal (20_memory.md R64), and what a refused one does
(R65). -/

namespace Sys2Proof.Machine

open Sys2Proof

/-! ### The port's checks are the rules of R62 and R64 -/

theorem inWritable_iff_inRam {a : Nat} : inWritable a = true ↔ inRam a := inWritable_iff a

theorem inNoise_iff_inRom {a : Nat} : inNoise a = true ↔ inRom a := inNoise_iff a

theorem legalRead_iff {a : Nat} {n : Size} :
    legalRead a n = true ↔ (inRam a ∨ inRom a) ∧ a % n.bytes = 0 := by
  rw [legalRead, Bool.and_eq_true, Bool.or_eq_true, inWritable_iff_inRam, inNoise_iff_inRom,
    decide_eq_true_iff]

theorem legalWrite_iff {a : Nat} {n : Size} :
    legalWrite a n = true ↔ inRam a ∧ a % n.bytes = 0 := by
  rw [legalWrite, Bool.and_eq_true, inWritable_iff_inRam, decide_eq_true_iff]

theorem Size.bytes_eq_four {n : Size} : n.bytes = 4 ↔ n = .b4 := by
  cases n <;> decide

theorem Reg.ofAddr_isSome {a : Nat} : (Reg.ofAddr a).isSome = true ↔ a ∈ registerOffsets := by
  constructor
  · intro h
    unfold Reg.ofAddr at h
    split at h
    case h_25 => cases h
    all_goals decide
  · exact (by decide : ∀ x ∈ registerOffsets, (Reg.ofAddr x).isSome = true) a

theorem Reg.mem_of_ofAddr {a : Nat} {r : Reg} (h : Reg.ofAddr a = some r) : a ∈ registerOffsets :=
  Reg.ofAddr_isSome.mp (by rw [h, Option.isSome_some])

theorem Reg.not_mem_of_ofAddr {a : Nat} (h : Reg.ofAddr a = none) : a ∉ registerOffsets := by
  rw [← Reg.ofAddr_isSome, h]
  exact Bool.false_ne_true

/-- No register lies in a memory region (R62). -/
theorem lt_of_mem_registerOffsets {a : Nat} (h : a ∈ registerOffsets) : a < 0x10000 :=
  (by decide : ∀ x ∈ registerOffsets, x < 0x10000) a h

/-- At a register a 4-byte access, read or write, is the only legal one. -/
theorem legalRead_reg_iff {a : Nat} {n : Size} (ha : a ∈ registerOffsets) :
    LegalRead a n.bytes ↔ n = .b4 := by
  have hlow := lt_of_mem_registerOffsets ha
  have hout : ¬ (inRam a ∨ inRom a) := by unfold inRam inRom; omega
  simp only [LegalRead, ha, hout, true_and, false_and, or_false, Size.bytes_eq_four]

theorem legalWrite_reg_iff {a : Nat} {n : Size} (ha : a ∈ registerOffsets) :
    LegalWrite a n.bytes ↔ n = .b4 := by
  have hlow := lt_of_mem_registerOffsets ha
  have hout : ¬ inRam a := by unfold inRam; omega
  simp only [LegalWrite, ha, hout, true_and, false_and, or_false, Size.bytes_eq_four]

/-- Elsewhere legality is the region's. -/
theorem legalRead_memory_iff {a : Nat} {n : Size} (ha : a ∉ registerOffsets) :
    LegalRead a n.bytes ↔ legalRead a n = true := by
  simp only [LegalRead, ha, false_and, false_or, legalRead_iff]

theorem legalWrite_memory_iff {a : Nat} {n : Size} (ha : a ∉ registerOffsets) :
    LegalWrite a n.bytes ↔ legalWrite a n = true := by
  simp only [LegalWrite, ha, false_and, false_or, legalWrite_iff]

/-! ### What a transaction answers -/

theorem State.hostRead_of_not_legal (s : State) {a : Nat} {n : Size} (h : ¬ LegalRead a n.bytes) :
    s.hostRead a n = .error := by
  cases hr : Reg.ofAddr a with
  | some r =>
    rw [legalRead_reg_iff (Reg.mem_of_ofAddr hr)] at h
    simp only [State.hostRead, hr, if_neg h]
  | none =>
    rw [legalRead_memory_iff (Reg.not_mem_of_ofAddr hr)] at h
    simp only [State.hostRead, hr, if_neg h]

theorem State.hostRead_of_legal (s : State) {a : Nat} {n : Size} (h : LegalRead a n.bytes) :
    ∃ d, s.hostRead a n = .data d := by
  cases hr : Reg.ofAddr a with
  | some r =>
    obtain rfl := (legalRead_reg_iff (Reg.mem_of_ofAddr hr)).mp h
    exact ⟨s.readReg r, State.hostRead_reg s hr⟩
  | none =>
    rw [legalRead_memory_iff (Reg.not_mem_of_ofAddr hr)] at h
    exact ⟨BitVec.ofNat 32 (s.memRead a n.bytes), by simp only [State.hostRead, hr, if_pos h]⟩

theorem State.hostWrite_of_not_legal (s : State) {a : Nat} {n : Size} (v : Word)
    (h : ¬ LegalWrite a n.bytes) : s.hostWrite a n v = .next (s.answered .error) := by
  cases hr : Reg.ofAddr a with
  | some r =>
    rw [legalWrite_reg_iff (Reg.mem_of_ofAddr hr)] at h
    simp only [State.hostWrite, hr, if_neg h]
  | none =>
    rw [legalWrite_memory_iff (Reg.not_mem_of_ofAddr hr)] at h
    simp only [State.hostWrite, hr, if_neg h]

/-- At each of the four read-only offsets stands a register whose write changes nothing. -/
theorem readOnlyReg_at {a : Addr} (ha : a ∈ [0x00000#20, 0x00004#20, 0x00014#20, 0x00018#20]) :
    ∃ r, Reg.ofAddr a.toNat = some r ∧ ∀ (s : State) (v : Word), s.writeReg v r = .next s := by
  simp only [List.mem_cons, List.not_mem_nil, or_false] at ha
  obtain rfl | rfl | rfl | rfl := ha
  · exact ⟨.id, rfl, fun _ _ => rfl⟩
  · exact ⟨.cfg, rfl, fun _ _ => rfl⟩
  · exact ⟨.errCode, rfl, fun _ _ => rfl⟩
  · exact ⟨.errInfo, rfl, fun _ _ => rfl⟩

/-! ### Steps -/

/-- A step serves the first waiting event in the state without it (R61). -/
theorem step_serve {s : State} {e : HostEvent} {rest : List HostEvent} (hin : s.inbox = e :: rest) :
    step s = State.serve { s with inbox := rest } e := by
  have hpop : s.pop = { s with inbox := rest } := by rw [State.pop, hin, List.tail_cons]
  simp only [step, hin, hpop]

/-- A read changes nothing but the answer, legal or not (R68). -/
theorem step_read {s : State} {a : Addr} {n : Size} {rest : List HostEvent}
    (hin : s.inbox = .read a n :: rest) :
    step s = .next { s with inbox := rest,
                            answer := State.hostRead { s with inbox := rest } a.toNat n } :=
  step_serve hin

/-- Settles O16, by the legality of the access: the port's own check and R64 agree at registers and
in the regions. -/
theorem refusedAccessChangesNothing : Obligations.RefusedAccessChangesNothing := by
  unfold Obligations.RefusedAccessChangesNothing
  intro s a n v rest
  refine ⟨fun hin hill => ?_, fun hin hill => ?_, fun hin hleg => ?_, fun hin ha => ?_⟩
  · rw [step_serve hin]
    exact State.hostWrite_of_not_legal _ v hill
  · rw [step_read hin, State.hostRead_of_not_legal _ hill]
  · obtain ⟨d, hd⟩ := State.hostRead_of_legal { s with inbox := rest } hleg
    exact ⟨d, by rw [step_read hin, hd]⟩
  · obtain ⟨r, hr, hwrite⟩ := readOnlyReg_at ha
    rw [step_write_reg hin hr, hwrite]

end Sys2Proof.Machine
end

section
/-! PROOFS. Which words the decoder accepts: those that match a row of the opcode table
(30_encoding.md R97). A word is taken apart into its fields, where a row's mask says of each field
whether it is free or zero; the decoder asks the same of the fields. -/

namespace Sys2Proof

/-! ### A word and its fields -/

/-- The word with these fields (R91). -/
def Fields.toWord (f : Fields) : Word := f.opc ++ f.z1 ++ f.ha ++ f.z2 ++ f.sc ++ f.sb ++ f.sa

/-- Two field lists joined by AND, field by field. -/
def Fields.and (f g : Fields) : Fields :=
  ⟨f.opc &&& g.opc, f.z1 &&& g.z1, f.ha &&& g.ha, f.z2 &&& g.z2, f.sc &&& g.sc, f.sb &&& g.sb,
    f.sa &&& g.sa⟩

theorem Fields.toWord_ofWord (w : Word) : (Fields.ofWord w).toWord = w := by
  unfold Fields.toWord Fields.ofWord
  dsimp only
  rw [BitVec.extractLsb'_append_extractLsb'_eq_extractLsb' (show 24 = 17 + 7 from rfl),
    BitVec.extractLsb'_append_extractLsb'_eq_extractLsb' (show 17 = 16 + 1 from rfl),
    BitVec.extractLsb'_append_extractLsb'_eq_extractLsb' (show 16 = 12 + 4 from rfl),
    BitVec.extractLsb'_append_extractLsb'_eq_extractLsb' (show 12 = 8 + 4 from rfl),
    BitVec.extractLsb'_append_extractLsb'_eq_extractLsb' (show 8 = 4 + 4 from rfl),
    BitVec.extractLsb'_append_extractLsb'_eq_extractLsb' (show 4 = 0 + 4 from rfl)]
  exact BitVec.extractLsb'_eq_self

theorem Fields.ofWord_toWord (f : Fields) : Fields.ofWord f.toWord = f := by
  rw [Fields.ofWord, Fields.toWord]
  congr 1
  all_goals
    ext i hi
    rw [BitVec.getElem_extractLsb']
    grind

theorem Fields.ofWord_and (w v : Word) :
    Fields.ofWord (w &&& v) = (Fields.ofWord w).and (Fields.ofWord v) := by
  simp only [Fields.ofWord, Fields.and, BitVec.extractLsb'_and]

/-- Two words are equal when their fields are. -/
theorem Fields.ofWord_inj {w v : Word} : Fields.ofWord w = Fields.ofWord v ↔ w = v :=
  ⟨fun h => by rw [← toWord_ofWord w, h, toWord_ofWord], fun h => by rw [h]⟩

/-! ### The opcode map: which fields each opcode uses (R93) -/

/-- Which of the fields `HA`, `SB`, `SC`, `SA` an instruction uses. -/
structure FieldUse where
  ha : Bool
  sb : Bool
  sc : Bool
  sa : Bool

/-- `NOP`. -/
def FieldUse.nothing : FieldUse := ⟨false, false, false, false⟩
/-- `COMP.*`. -/
def FieldUse.comp : FieldUse := ⟨true, true, false, true⟩
/-- The commands of one tile. -/
def FieldUse.a : FieldUse := ⟨false, false, false, true⟩
/-- The commands of two tiles. -/
def FieldUse.ab : FieldUse := ⟨false, true, false, true⟩
/-- `STRK`. -/
def FieldUse.abc : FieldUse := ⟨false, true, true, true⟩

/-- The defined opcodes (R92) with the fields they use (R93). -/
def opcodeUses : List (BitVec 8 × FieldUse) :=
  [(0x00, .nothing),
   (0x10, .comp), (0x11, .comp), (0x12, .comp), (0x13, .comp), (0x14, .comp), (0x15, .comp),
   (0x16, .comp), (0x17, .comp), (0x18, .comp), (0x19, .comp), (0x1A, .comp), (0x1B, .comp),
   (0x1C, .comp), (0x1D, .comp), (0x1E, .comp), (0x1F, .comp),
   (0x30, .a), (0x31, .a), (0x32, .a), (0x33, .a),
   (0x40, .ab), (0x41, .ab), (0x42, .ab), (0x43, .ab), (0x44, .a), (0x45, .ab), (0x46, .a),
   (0x50, .ab), (0x51, .ab), (0x60, .ab), (0x70, .abc)]

/-- Every field that is not used is zero, `Z1` and `Z2` always. -/
def Fields.Fits (f : Fields) (u : FieldUse) : Prop :=
  f.z1 = 0 ∧ f.z2 = 0 ∧ (u.ha = false → f.ha = 0) ∧ (u.sc = false → f.sc = 0) ∧
    (u.sb = false → f.sb = 0) ∧ (u.sa = false → f.sa = 0)

/-! ### The rows: mask and match of an opcode -/

/-- The bits of a field in a mask: none of a used field, all of another. -/
def maskBits (n : Nat) (used : Bool) : BitVec n := if used then 0#n else BitVec.allOnes n

/-- The mask of R97 for instructions that use these fields. -/
def FieldUse.mask (u : FieldUse) : Fields :=
  ⟨0xFF, 0x7F, maskBits 1 u.ha, 0xF, maskBits 4 u.sc, maskBits 4 u.sb, maskBits 4 u.sa⟩

/-- The row of the opcode table of an opcode and the fields it uses: `match = OPC << 24` (R97). -/
def tableRow (e : BitVec 8 × FieldUse) : Word × Word :=
  (e.2.mask.toWord, Fields.toWord ⟨e.1, 0, 0, 0, 0, 0, 0⟩)

theorem commandRows_eq : Machine.commandRows = opcodeUses.map tableRow := rfl

theorem and_maskBits_eq_zero {n : Nat} (x : BitVec n) (used : Bool) :
    x &&& maskBits n used = 0 ↔ (used = false → x = 0) := by
  cases used <;> simp [maskBits]

theorem and_tableRow_iff (w : Word) (e : BitVec 8 × FieldUse) :
    w &&& (tableRow e).1 = (tableRow e).2 ↔
      (Fields.ofWord w).opc = e.1 ∧ (Fields.ofWord w).Fits e.2 := by
  have opcBits (x : BitVec 8) : x &&& 0xFF = x := BitVec.and_allOnes
  have z1Bits (x : BitVec 7) : x &&& 0x7F = x := BitVec.and_allOnes
  have z2Bits (x : BitVec 4) : x &&& 0xF = x := BitVec.and_allOnes
  rw [← Fields.ofWord_inj, Fields.ofWord_and, tableRow, Fields.ofWord_toWord, Fields.ofWord_toWord]
  simp only [Fields.and, FieldUse.mask, Fields.mk.injEq, Fields.Fits, opcBits, z1Bits, z2Bits,
    and_maskBits_eq_zero]
  tauto

/-! ### What the decoder accepts -/

theorem Fields.guarded_ok_iff (f : Fields) (u : FieldUse) (i : Instr) :
    (∃ j, f.guarded u.ha u.sb u.sc u.sa i = .ok j) ↔ f.Fits u := by
  unfold Fields.guarded Fields.Fits
  split_ifs with hz hha hslots
  · exact iff_of_false (by simp) (by tauto)
  · exact iff_of_false (by simp) (by tauto)
  · exact iff_of_false (by simp) (by tauto)
  · exact iff_of_true ⟨i, rfl⟩ (by tauto)

/-- A defined opcode decodes to its instruction once its unused fields are checked. -/
theorem Fields.decode_of_mem {f : Fields} {e : BitVec 8 × FieldUse} (he : e ∈ opcodeUses)
    (hopc : f.opc = e.1) : ∃ i, f.decode = f.guarded e.2.ha e.2.sb e.2.sc e.2.sa i := by
  rw [Fields.decode, hopc]
  fin_cases he <;> exact ⟨_, rfl⟩

/-- A word that decodes has a defined opcode. -/
theorem Fields.opc_of_decode {f : Fields} {i : Instr} (h : f.decode = .ok i) :
    ∃ e ∈ opcodeUses, f.opc = e.1 := by
  suffices hmem : BitVec.ofNat 8 f.opc.toNat ∈ opcodeUses.map Prod.fst by
    rw [BitVec.ofNat_toNat, BitVec.setWidth_eq, List.mem_map] at hmem
    obtain ⟨e, he, hopc⟩ := hmem
    exact ⟨e, he, hopc.symm⟩
  unfold Fields.decode at h
  split at h
  case h_33 => cases h
  all_goals
    rename_i hopc
    rw [hopc]
    decide

/-- R97: a word is legal exactly when it matches a row. -/
theorem decode_ok_iff (w : Word) :
    (∃ i, decode w = .ok i) ↔ ∃ r ∈ Machine.commandRows, w &&& r.1 = r.2 := by
  rw [commandRows_eq]
  constructor
  · rintro ⟨i, hi⟩
    obtain ⟨e, he, hopc⟩ := Fields.opc_of_decode hi
    obtain ⟨j, hj⟩ := Fields.decode_of_mem he hopc
    have hfits := (Fields.guarded_ok_iff _ e.2 j).mp ⟨i, hj.symm.trans hi⟩
    exact ⟨tableRow e, List.mem_map_of_mem he, (and_tableRow_iff w e).mpr ⟨hopc, hfits⟩⟩
  · rintro ⟨r, hr, hmatch⟩
    obtain ⟨e, he, rfl⟩ := List.mem_map.mp hr
    obtain ⟨hopc, hfits⟩ := (and_tableRow_iff w e).mp hmatch
    obtain ⟨j, hj⟩ := Fields.decode_of_mem he hopc
    obtain ⟨i, hi⟩ := (Fields.guarded_ok_iff _ e.2 j).mpr hfits
    exact ⟨i, hj.trans hi⟩

/-- R97: a word that matches no row is rejected. -/
theorem decode_error_of_no_row {w : Word} (h : ∀ r ∈ Machine.commandRows, w &&& r.1 ≠ r.2) :
    ∃ e, decode w = .error e := by
  cases hd : decode w with
  | error e => exact ⟨e, rfl⟩
  | ok i =>
    obtain ⟨r, hr, hmatch⟩ := (decode_ok_iff w).mp ⟨i, hd⟩
    exact absurd hmatch (h r hr)

end Sys2Proof
end

section
/-! PROOFS. The host write to `CMD` (30_encoding.md R94, R95, R97): discarded while the engine is
halted, `ILLEGAL_CMD` for a word that matches no row, `BAD_SLOT` for a slot that does not exist, and
otherwise the command. -/

namespace Sys2Proof.Machine

open Sys2Proof

/-! ### The slot check -/

/-- The slot check's fault is `BAD_SLOT` at the position of a field, counted from `n`. -/
theorem badSlotFrom_eq_some {n : Nat} {l : List (MemKind × Slot)} {f : FaultRec}
    (h : badSlotFrom n l = some f) : ∃ k, k < n + l.length ∧ f = ⟨.badSlot, 0, 0, k⟩ := by
  induction l generalizing n with
  | nil => cases h
  | cons g rest ih =>
    rw [badSlotFrom] at h
    rw [List.length_cons]
    split at h
    · exact ⟨n, by omega, (Option.some.inj h).symm⟩
    · obtain ⟨k, hk, hf⟩ := ih h
      exact ⟨k, by omega, hf⟩

theorem slotFields_length_le (i : Instr) : i.slotFields.length ≤ 3 := by
  cases i <;> simp [Instr.slotFields]

/-- The `ERR_INFO` of a `BAD_SLOT`: `OPND` at bit 20, the rest zero (10_state.md R29). -/
theorem badSlot_info {k : Nat} (hk : k < 3) :
    (FaultRec.mk .badSlot 0 0 k).info = BitVec.ofNat 22 (k * 2 ^ 20) := by
  interval_cases k <;> rfl

/-- Every instruction is the common procedure over its own slot fields (R94 steps 4 to 7). -/
theorem exec_eq_command (i : Instr) (s : State) :
    ∃ body, exec i s = .next (s.command i.slotFields body) := by
  cases i <;> exact ⟨_, rfl⟩

/-- An instruction that names a slot that does not exist raises `BAD_SLOT`, and that is all. -/
theorem exec_not_wellFormed {i : Instr} (h : i.wellFormed = false) (s : State) :
    ∃ k, k < 3 ∧ exec i s = .next (s.raise ⟨.badSlot, 0, 0, k⟩) := by
  obtain ⟨body, hexec⟩ := exec_eq_command i s
  have hlen := slotFields_length_le i
  cases hbad : badSlotFrom 0 i.slotFields with
  | none =>
    have hall : i.wellFormed = true := (badSlotFrom_eq_none 0 i.slotFields).mp hbad
    rw [h] at hall
    cases hall
  | some f =>
    obtain ⟨k, hk, rfl⟩ := badSlotFrom_eq_some hbad
    exact ⟨k, by omega, by rw [hexec, State.command_bad body hbad]⟩

/-! ### The `CMD` write -/

theorem State.writeCmd_halted {s : State} (herr : s.status.getLsbD 1 = true) (w : Word) :
    s.writeCmd w = .next s := by
  rw [State.writeCmd, State.err, if_pos herr]

theorem State.writeCmd_illegal {s : State} {w : Word} {e : Reject}
    (herr : s.status.getLsbD 1 = false) (hd : decode w = .error e) :
    s.writeCmd w = .next (State.raise { s with cmd := w } illegalFault) := by
  simp only [State.writeCmd, State.err, herr, hd, Bool.false_eq_true, if_false]

theorem State.writeCmd_legal {s : State} {w : Word} {i : Instr}
    (herr : s.status.getLsbD 1 = false) (hd : decode w = .ok i) :
    s.writeCmd w = exec i { s with cmd := w } := by
  simp only [State.writeCmd, State.err, herr, hd, Bool.false_eq_true, if_false]

/-- A step that serves a 4-byte write to `CMD`. -/
theorem step_write_cmd {s : State} {w : Word} {rest : List HostEvent}
    (hin : s.inbox = .write 0x00010#20 .b4 w :: rest) :
    step s = State.writeCmd { s with inbox := rest, answer := .ok } w :=
  step_write_reg hin rfl

theorem step_cmd_halted {s : State} {w : Word} {rest : List HostEvent}
    (hin : s.inbox = .write 0x00010#20 .b4 w :: rest) (herr : s.status.getLsbD 1 = true) :
    step s = .next { s with inbox := rest, answer := .ok } :=
  (step_write_cmd hin).trans (State.writeCmd_halted (by exact herr) w)

theorem step_cmd_illegal {s : State} {w : Word} {rest : List HostEvent} {e : Reject}
    (hin : s.inbox = .write 0x00010#20 .b4 w :: rest) (herr : s.status.getLsbD 1 = false)
    (hd : decode w = .error e) :
    step s = .next
      (State.raise { s with inbox := rest, answer := .ok, cmd := w } illegalFault) :=
  (step_write_cmd hin).trans (State.writeCmd_illegal herr hd)

theorem step_cmd_legal {s : State} {w : Word} {rest : List HostEvent} {i : Instr}
    (hin : s.inbox = .write 0x00010#20 .b4 w :: rest) (herr : s.status.getLsbD 1 = false)
    (hd : decode w = .ok i) :
    step s = exec i { s with inbox := rest, answer := .ok, cmd := w } :=
  (step_write_cmd hin).trans (State.writeCmd_legal herr hd)

/-- Settles O3: R97's rows are the decoder's (`decode_ok_iff`), and a legal word that names a missing
slot stops at the slot check. -/
theorem legalCommandWords : Obligations.LegalCommandWords := by
  unfold Obligations.LegalCommandWords
  intro w
  refine ⟨decode_ok_iff w, fun s rest hin herr => ⟨fun hnone => ?_, fun i hd hill => ?_⟩⟩
  · obtain ⟨e, hd⟩ := decode_error_of_no_row hnone
    exact step_cmd_illegal hin herr hd
  · obtain ⟨k, hk, hexec⟩ :=
      exec_not_wellFormed hill { s with inbox := rest, answer := .ok, cmd := w }
    refine ⟨k, hk, ?_⟩
    rw [step_cmd_legal hin herr hd, hexec, State.raise, badSlot_info hk]
    rfl

/-- Writing 1 to `STATUS.ERR` clears it (10_state.md R24). -/
theorem State.writeStatus_clears_err (s : State) {v : Word} (hv : v.getLsbD 1 = true) :
    (s.writeStatus v).status.getLsbD 1 = false := by
  simp [hv]

/-- Settles O11: a halted engine leaves the state as it is served, and the write to `STATUS` clears the
one bit that halts it. -/
theorem haltedEngineDiscards : Obligations.HaltedEngineDiscards := by
  unfold Obligations.HaltedEngineDiscards
  refine ⟨fun s w rest herr hin => step_cmd_halted hin herr, fun s w v i rest hv hd hin => ?_⟩
  have hclear := State.writeStatus_clears_err
    { s with inbox := .write 0x00010#20 .b4 w :: rest, answer := .ok } hv
  exact ⟨_, step_write_reg hin rfl, hclear, step_cmd_legal rfl hclear hd⟩

end Sys2Proof.Machine
end

section
/-! PROOFS. The integer square root (40_fixed_point.md R124): the digit-by-digit search is the floor
of the square root. -/

namespace Sys2Proof.Machine

open Sys2Proof

/-- The search keeps the bracket `r² ≤ n < (r + 2^k)²` and halves it with each digit. -/
theorem isqrtFrom_bracket {n : Nat} (k r : Nat) (hlo : r * r ≤ n)
    (hhi : n < (r + 2 ^ k) * (r + 2 ^ k)) :
    isqrtFrom n k r * isqrtFrom n k r ≤ n ∧ n < (isqrtFrom n k r + 1) * (isqrtFrom n k r + 1) := by
  induction k generalizing r with
  | zero => exact ⟨hlo, hhi⟩
  | succ k ih =>
    rw [isqrtFrom]
    split
    case isTrue hdigit =>
      have hsplit : r + 2 ^ (k + 1) = r + 2 ^ k + 2 ^ k := by rw [pow_succ]; omega
      exact ih (r + 2 ^ k) hdigit (hsplit ▸ hhi)
    case isFalse hdigit => exact ih r hlo (Nat.lt_of_not_le hdigit)

/-- `log2 n / 2 + 1` binary digits hold the root of `n`. -/
theorem lt_sq_two_pow_half_log2 (n : Nat) :
    n < 2 ^ (n.log2 / 2 + 1) * 2 ^ (n.log2 / 2 + 1) :=
  calc n < 2 ^ (n.log2 + 1) := Nat.lt_log2_self
    _ ≤ 2 ^ (n.log2 / 2 + 1 + (n.log2 / 2 + 1)) := Nat.pow_le_pow_right (by decide) (by omega)
    _ = 2 ^ (n.log2 / 2 + 1) * 2 ^ (n.log2 / 2 + 1) := pow_add ..

theorem isqrt_eq_sqrt (n : Nat) : isqrt n = n.sqrt := by
  have hhi : n < (0 + 2 ^ (n.log2 / 2 + 1)) * (0 + 2 ^ (n.log2 / 2 + 1)) := by
    simpa only [Nat.zero_add] using lt_sq_two_pow_half_log2 n
  exact Nat.eq_sqrt.mpr (isqrtFrom_bracket _ 0 (Nat.zero_le n) hhi)

theorem isqrt_eq_iff {n r : Nat} : isqrt n = r ↔ r * r ≤ n ∧ n < (r + 1) * (r + 1) := by
  rw [isqrt_eq_sqrt, eq_comm, Nat.eq_sqrt]

/-- Settles O27: `isqrt` is the library's floor root, and each example lies between its root's square
and the next one. -/
theorem isqrtIsFloorRoot : Obligations.IsqrtIsFloorRoot := by
  unfold Obligations.IsqrtIsFloorRoot
  refine ⟨fun n => ?_, isqrt_eq_iff.mpr (by decide), isqrt_eq_iff.mpr (by decide),
    isqrt_eq_iff.mpr (by decide)⟩
  rw [isqrt_eq_sqrt]
  exact ⟨Nat.sqrt_le n, fun r hr => Nat.le_sqrt.mpr hr⟩

end Sys2Proof.Machine
end

section
/-! PROOFS. The compositing engine at opacity zero (41_composite.md R144): a command of any mode reads
no tile and completes, and the slot check and the decoder come before it. -/

namespace Sys2Proof.Machine

open Sys2Proof

/-! ### The sixteen instructions -/

/-- Each mode with a blend function runs the common procedure with the colour rule of R146. -/
theorem exec_blendModes {e : (Bool → Slot → Slot → Instr) × (Rgb → Rgb → Rgb)}
    (he : e ∈ blendModes) (ha : Bool) (sa sb : Slot) (s : State) :
    exec (e.1 ha sa sb) s = .next (composite (blendColour e.2) ha sa sb s) := by
  simp only [blendModes, List.mem_cons, List.not_mem_nil, or_false] at he
  rcases he with rfl | rfl | rfl | rfl | rfl | rfl | rfl | rfl | rfl | rfl | rfl | rfl | rfl | rfl |
    rfl <;> rfl

/-- Every `COMP.*` runs the common procedure of R142 with a colour rule of its own. -/
theorem exec_compModes {e : (Bool → Slot → Slot → Instr) × (Nat → Bool → Pixel → Pixel → Pixel)}
    (he : e ∈ compModes) :
    ∃ colour, ∀ ha sa sb s, exec (e.1 ha sa sb) s = .next (composite colour ha sa sb s) := by
  obtain rfl | hblend := List.mem_cons.mp he
  · exact ⟨normalColour, fun _ _ _ _ => rfl⟩
  · obtain ⟨b, hb, rfl⟩ := List.mem_map.mp hblend
    exact ⟨blendColour b.2, exec_blendModes hb⟩

/-! ### The common procedure -/

/-- With opacity zero the data phase is skipped (R144). -/
theorem composite_opacity_zero (colour : CompIn → Rgb) (ha : Bool) {sa sb : Slot} {s : State}
    (hop : s.opacity = 0#16) (hsa : sa.toNat < 4) (hsb : sb.toNat < 4) :
    composite colour ha sa sb s = s.setDone := by
  have hzero : s.opacity.toNat = 0 := by rw [hop]; rfl
  exact State.command_completes (slots_two hsa hsb) (if_pos hzero)

theorem badSlotFrom_cons_missing {n : Nat} {k : MemKind} {a : Slot} (rest : List (MemKind × Slot))
    (h : ¬ a.toNat < k.slots) : badSlotFrom n ((k, a) :: rest) = some ⟨.badSlot, 0, 0, n⟩ := by
  rw [badSlotFrom, if_pos (Nat.le_of_not_lt h)]

theorem badSlotFrom_cons_present {n : Nat} {k : MemKind} {a : Slot} (rest : List (MemKind × Slot))
    (h : a.toNat < k.slots) : badSlotFrom n ((k, a) :: rest) = badSlotFrom (n + 1) rest := by
  rw [badSlotFrom, if_neg (Nat.not_le_of_lt h)]

/-- Of two working slots that do not both exist, the slot check reports the first missing one. -/
theorem badSlotFrom_two16 {sa sb : Slot} (h : ¬ (sa.toNat < 4 ∧ sb.toNat < 4)) :
    badSlotFrom 0 [(.t16, sa), (.t16, sb)] =
      some ⟨.badSlot, 0, 0, if sa.toNat < 4 then 1 else 0⟩ := by
  by_cases hsa : sa.toNat < 4
  case pos =>
    have hsb : ¬ sb.toNat < 4 := fun hsb => h ⟨hsa, hsb⟩
    rw [badSlotFrom_cons_present _ hsa, badSlotFrom_cons_missing _ hsb, if_pos hsa]
  case neg => rw [badSlotFrom_cons_missing _ hsa, if_neg hsa]

/-- `COMP.*` with a slot that does not exist raises `BAD_SLOT`, whatever the opacity. -/
theorem composite_bad (colour : CompIn → Rgb) (ha : Bool) {sa sb : Slot} (s : State)
    (h : ¬ (sa.toNat < 4 ∧ sb.toNat < 4)) :
    composite colour ha sa sb s =
      s.raise ⟨.badSlot, 0, 0, if sa.toNat < 4 then 1 else 0⟩ :=
  State.command_bad _ (badSlotFrom_two16 h)

/-- The `ERR_INFO` of that fault: `OPND` 1 at bit 20 when `SB` is the first missing slot. -/
theorem badSlot_two_info (p : Prop) [Decidable p] :
    (FaultRec.mk .badSlot 0 0 (if p then 1 else 0)).info =
      BitVec.ofNat 22 (if p then 2 ^ 20 else 0) := by
  split <;> exact badSlot_info (by decide)

/-- Settles O34: all sixteen commands are `composite`, which skips its data phase at opacity zero but
not its slot check; a word that decodes to nothing never reaches it. -/
theorem compOpacityZero : Obligations.CompOpacityZero := by
  unfold Obligations.CompOpacityZero
  refine ⟨fun e he ha sa sb s hop => ?_, fun s w rest _ herr hnone hin => ?_⟩
  · obtain ⟨colour, hexec⟩ := exec_compModes he
    refine ⟨fun hsa hsb => ?_, fun hbad => ?_⟩
    · rw [hexec, composite_opacity_zero colour ha hop hsa hsb, State.setDone]
    · rw [hexec, composite_bad colour ha s hbad, State.raise, badSlot_two_info]
      rfl
  · cases hd : decode w with
    | ok i => exact absurd hd (hnone i)
    | error e => exact step_cmd_illegal hin herr hd

end Sys2Proof.Machine
end

section
/-! PROOFS. The accumulators (43_dab.md R213, R214): `DABACC` adds its sums to them when and only when
its traversal completes, and no other command changes more than memory, flags and fault registers. -/

namespace Sys2Proof.Machine

open Sys2Proof

/-! ### The sums of the visited pixels -/

/-- The sums with the terms of all these visits added (R213). -/
def Sums.addVisits (x : Sums) (m : Memory) (sa : Slot) (visits : List (Nat × Nat)) : Sums :=
  ⟨x.w + (visits.map fun e => e.2).sum,
   x.r + (visits.map fun e => e.2 * (m.pixel16 sa e.1).r / 32768).sum,
   x.g + (visits.map fun e => e.2 * (m.pixel16 sa e.1).g / 32768).sum,
   x.b + (visits.map fun e => e.2 * (m.pixel16 sa e.1).b / 32768).sum,
   x.a + (visits.map fun e => e.2 * (m.pixel16 sa e.1).a / 32768).sum⟩

theorem Sums.addVisits_nil (x : Sums) (m : Memory) (sa : Slot) : x.addVisits m sa [] = x := rfl

theorem Sums.addVisits_cons (x : Sums) (m : Memory) (sa : Slot) (e : Nat × Nat)
    (rest : List (Nat × Nat)) :
    x.addVisits m sa (e :: rest) = (x.add e.2 (m.pixel16 sa e.1)).addVisits m sa rest := by
  simp only [Sums.addVisits, Sums.add, mul, List.map_cons, List.sum_cons, Nat.add_assoc,
    show 2 ^ 15 = 32768 from rfl]

theorem sumPixel_ok {m : Memory} {sa : Slot} {p v : Nat} {x y : Sums} :
    sumPixel m sa p v x = .ok y ↔ (m.pixel16 sa p).Range4 ∧ x.add v (m.pixel16 sa p) = y :=
  checked_ok.trans (and_congr_left' (Pixel.check_eq_none _ .range4 .a p))

/-- A visit of `DABACC` faults only by its pixel's range check. -/
theorem sumPixel_error_cause {m : Memory} {sa : Slot} {p v : Nat} {x : Sums} {f : FaultRec}
    (h : sumPixel m sa p v x = .error f) : f.cause = .pixRange ∨ f.cause = .pixPremul :=
  (Pixel.check_fault (checked_error.mp h)).1

/-- The visits pass exactly when every visited pixel is in range, and then they leave the sums. -/
theorem visitAll_sumPixel_ok {m : Memory} {sa : Slot} {visits : List (Nat × Nat)} {x y : Sums} :
    visitAll (sumPixel m sa) visits x = .ok y ↔
      m.VisitedPixels sa visits Pixel.Range4 ∧ x.addVisits m sa visits = y := by
  unfold Memory.VisitedPixels
  induction visits generalizing x with
  | nil => simp [visitAll, Sums.addVisits_nil]
  | cons e rest ih =>
    rw [visitAll, List.forall_mem_cons, Sums.addVisits_cons]
    split
    case h_1 f hf =>
      have hbad : ¬ (m.pixel16 sa e.1).Range4 := fun hok => by
        rw [sumPixel_ok.mpr ⟨hok, rfl⟩] at hf
        cases hf
      exact iff_of_false (by simp) fun h => hbad h.1.1
    case h_2 z hz =>
      obtain ⟨hrange, rfl⟩ := sumPixel_ok.mp hz
      rw [ih, and_iff_right hrange]

/-! ### The data phase of `DABACC` -/

/-- R202's traversal starts with the 8192 words of `MASK`. -/
theorem walkMask_eq {σ : Type} (m : Memory) (process : Nat → Nat → σ → Except FaultRec σ) (x : σ) :
    walkMask m process x = maskWalk m.mask process 8192 0 0 x := rfl

/-- The sums of the whole command, which start at zero (R213). -/
def dabaccSums (m : Memory) (sa : Slot) (visits : List (Nat × Nat)) : Sums :=
  Sums.addVisits ⟨0, 0, 0, 0, 0⟩ m sa visits

/-- A completed traversal commits its sums. -/
theorem accumulate_completes {sa : Slot} {s : State} {visits : List (Nat × Nat)}
    (hends : MaskEnds s.mem.mask visits) (hrange : s.mem.VisitedPixels sa visits Pixel.Range4) :
    accumulate sa s = (s.commit (dabaccSums s.mem sa visits), none) := by
  have hvisits : visitAll (sumPixel s.mem sa) visits ⟨0, 0, 0, 0, 0⟩ =
      .ok (dabaccSums s.mem sa visits) := visitAll_sumPixel_ok.mpr ⟨hrange, rfl⟩
  rw [accumulate, walkMask_eq, hends.walk hvisits]

/-- The causes a `DABACC` can record: of its slot, of a visited pixel, of the mask. -/
def dabaccCauses : List Cause :=
  [.badSlot, .pixRange, .pixPremul, .maskValue, .maskRange, .maskOverrun]

theorem dabaccCauses_code : ∀ c ∈ dabaccCauses, 2 ≤ c.code ∧ c.code ≤ 9 := by decide

/-- A traversal that does not complete leaves the state as it was, with its fault. -/
theorem accumulate_faults {sa : Slot} {s : State}
    (h : ¬ ∃ visits, MaskEnds s.mem.mask visits ∧ s.mem.VisitedPixels sa visits Pixel.Range4) :
    ∃ f, f.cause ∈ dabaccCauses ∧ accumulate sa s = (s, some f) := by
  rcases maskWalk_cases (mask := s.mem.mask) (process := sumPixel s.mem sa) 8192 0 0
      ⟨0, 0, 0, 0, 0⟩ rfl [] .start _ rfl with
    ⟨visits, _, hends, hvisits, _⟩ | ⟨_, _, _, _, f, _, _, hwalk, hcause⟩
  · exact absurd ⟨visits, hends, (visitAll_sumPixel_ok.mp hvisits).1⟩ h
  · refine ⟨f, ?_, by rw [accumulate, walkMask_eq, hwalk]⟩
    rcases hcause with ⟨c, _, rfl, hc⟩ | ⟨_, _, _, _, hpixel⟩
    · show c ∈ dabaccCauses
      rcases hc with rfl | rfl | rfl <;> decide
    · rcases sumPixel_error_cause hpixel with hc | hc <;> simp [hc, dabaccCauses]

/-! ### The command -/

theorem exec_dabacc (sa : Slot) (s : State) :
    exec (.dabacc sa) s = .next (s.command [(.t16, sa)] (accumulate sa)) := rfl

/-- Adding a number to an accumulator modulo 2^64. -/
theorem acc_add_ofNat (acc : BitVec 64) (n : Nat) :
    acc + BitVec.ofNat 64 n = BitVec.ofNat 64 (acc.toNat + n) := by
  rw [BitVec.ofNat_add, BitVec.ofNat_toNat, BitVec.setWidth_eq]

theorem exec_dabacc_completes {sa : Slot} {s : State} {visits : List (Nat × Nat)}
    (hsa : sa.toNat < 4) (hends : MaskEnds s.mem.mask visits)
    (hrange : s.mem.VisitedPixels sa visits Pixel.Range4) :
    exec (.dabacc sa) s = .next (s.commit (dabaccSums s.mem sa visits)).setDone := by
  rw [exec_dabacc, State.command_completes (slots_one hsa) (accumulate_completes hends hrange)]

/-- A `DABACC` that does not complete raises a fault over the state it started from. -/
theorem exec_dabacc_faults {sa : Slot} {s : State}
    (h : ¬ (sa.toNat < 4 ∧ ∃ visits, MaskEnds s.mem.mask visits ∧
      s.mem.VisitedPixels sa visits Pixel.Range4)) :
    ∃ f, f.cause ∈ dabaccCauses ∧ exec (.dabacc sa) s = .next (s.raise f) := by
  by_cases hsa : sa.toNat < 4
  case neg =>
    exact ⟨⟨.badSlot, 0, 0, 0⟩, by decide, by
      rw [exec_dabacc, State.command_bad _ (badSlotFrom_cons_missing [] hsa)]⟩
  case pos =>
    obtain ⟨f, hcause, hacc⟩ := accumulate_faults fun hends => h ⟨hsa, hends⟩
    exact ⟨f, hcause, by rw [exec_dabacc, State.command_faults (slots_one hsa) hacc]⟩

/-! ### The other commands -/

/-- A command whose data phase changes memory only ends over another memory, in `DONE` or a fault. -/
theorem State.command_memory {s : State} (slots : List (MemKind × Slot))
    {body : State → State × Option FaultRec} (h : ∃ m, (body s).1 = s.withMem m) :
    ∃ m r, s.command slots body = (s.withMem m).finish r := by
  obtain ⟨m, hm⟩ := h
  cases hbad : badSlotFrom 0 slots with
  | some f => exact ⟨s.mem, some f, State.command_bad body hbad⟩
  | none =>
    exact ⟨m, (body s).2, by rw [State.command_ok body ((badSlotFrom_eq_none 0 slots).mp hbad), hm]⟩

theorem State.command_overMem (s : State) (slots : List (MemKind × Slot))
    (f : State → Memory → Memory × Option FaultRec) :
    ∃ m r, s.command slots (fun t => t.overMem (f t)) = (s.withMem m).finish r :=
  State.command_memory slots ⟨_, rfl⟩

theorem composite_memory (colour : CompIn → Rgb) (ha : Bool) (sa sb : Slot) (s : State) :
    ∃ m r, composite colour ha sa sb s = (s.withMem m).finish r := by
  refine State.command_memory _ ?_
  split
  · exact ⟨s.mem, rfl⟩
  · exact ⟨_, rfl⟩

/-- Every command but `DABACC` changes memory only, before its end in `DONE` or a fault. -/
theorem exec_memory (i : Instr) (s : State) (h : ∀ sa, i ≠ .dabacc sa) :
    ∃ t, exec i s = .next t ∧ ∃ m r, t = (s.withMem m).finish r := by
  cases i with
  | dabacc sa => exact absurd rfl (h sa)
  | nop => exact ⟨_, rfl, State.command_memory [] ⟨s.mem, rfl⟩⟩
  | downs sa sb =>
    refine ⟨_, rfl, State.command_memory _ ?_⟩
    split
    · exact ⟨s.mem, rfl⟩
    · exact ⟨_, rfl⟩
  | compNormal | compMultiply | compScreen | compDarken | compLighten | compOverlay | compHardlight
  | compSoftlight | compColordodge | compColorburn | compDifference | compExclusion | compHue
  | compSaturation | compColor | compLuminosity => exact ⟨_, rfl, composite_memory _ _ _ _ s⟩
  | dabn | dabe | dabl | cv16to8 | cv16to8x | cv8to16 | tcpy16 | tclr16 | tcpy8 | tclr8 | flat
  | unflat | strk => exact ⟨_, rfl, s.command_overMem _ _⟩

/-- Settles O42: a `DABACC` commits its sums where its traversal completes and raises over the
untouched state elsewhere; the other commands change memory, flags and fault registers only. -/
theorem accumulatorCommit : Obligations.AccumulatorCommit := by
  unfold Obligations.AccumulatorCommit
  refine ⟨fun sa s visits hsa hends hrange => ?_, fun sa s hnot => ?_, fun i s hother => ?_⟩
  · rw [exec_dabacc_completes hsa hends hrange]
    simp only [State.setDone, State.commit, dabaccSums, Sums.addVisits, acc_add_ofNat, Nat.zero_add]
  · obtain ⟨f, hcause, hexec⟩ := exec_dabacc_faults hnot
    obtain ⟨hlo, hhi⟩ := dabaccCauses_code _ hcause
    exact ⟨f.cause.code, f.info, hlo, hhi, hexec⟩
  · obtain ⟨t, hexec, m, r, rfl⟩ := exec_memory i s hother
    refine ⟨_, hexec, ?_⟩
    cases r <;> exact ⟨rfl, rfl, rfl, rfl, rfl⟩

end Sys2Proof.Machine
end

section
/-! PROOFS. `NOP` (44_convert.md R241): the one instruction whose table row leaves no field free, so
that a single word decodes to it, and a command without slot check or data phase. -/

namespace Sys2Proof

/-- The check of the unused fields accepts no other instruction than the one it guards. -/
theorem Fields.guarded_ok_eq {f : Fields} {ha sb sc sa : Bool} {i j : Instr}
    (h : f.guarded ha sb sc sa i = .ok j) : i = j := by
  unfold Fields.guarded at h
  split_ifs at h
  exact Except.ok.inj h

/-- Opcode 0 is the only one whose instruction is `NOP` (30_encoding.md R92). -/
theorem Fields.opc_of_decode_nop {f : Fields} (h : f.decode = .ok .nop) : f.opc = 0 := by
  unfold Fields.decode at h
  split at h
  case h_1 hopc => exact BitVec.eq_of_toNat_eq hopc
  case h_33 => cases h
  all_goals cases Fields.guarded_ok_eq h

/-- `NOP` uses no field beside its opcode (R93). -/
theorem Fields.decode_nop_iff (f : Fields) :
    f.decode = .ok .nop ↔ f.opc = 0 ∧ f.Fits .nothing := by
  have decode_opc_zero (hopc : f.opc = 0) :
      f.decode = f.guarded false false false false .nop := by
    rw [Fields.decode, hopc]
    rfl
  constructor
  · intro h
    have hopc := Fields.opc_of_decode_nop h
    exact ⟨hopc, (f.guarded_ok_iff .nothing .nop).mp ⟨_, (decode_opc_zero hopc).symm.trans h⟩⟩
  · rintro ⟨hopc, hfits⟩
    obtain ⟨j, hj⟩ := (f.guarded_ok_iff .nothing .nop).mpr hfits
    cases Fields.guarded_ok_eq hj
    exact (decode_opc_zero hopc).trans hj

/-- The mask of `NOP`'s row keeps every bit and its match is 0 (R97), so the row is the word 0. -/
theorem decode_nop_iff (w : Word) : decode w = .ok .nop ↔ w = 0#32 := by
  have row : tableRow (0x00, .nothing) = (BitVec.allOnes 32, 0#32) := rfl
  rw [decode, Fields.decode_nop_iff, ← and_tableRow_iff w (0x00, .nothing), row, BitVec.and_allOnes]

end Sys2Proof

namespace Sys2Proof.Machine

open Sys2Proof

theorem exec_nop (s : State) : exec .nop s = .next s.setDone :=
  congrArg Host.Outcome.next (State.command_completes rfl rfl)

/-- Settles O24: the word 0 alone decodes to `NOP`, whose execution is `setDone`, and the step that
serves its `CMD` write is that execution or, while `ERR` is 1, nothing. -/
theorem nopOnlySetsDone : Obligations.NopOnlySetsDone := by
  unfold Obligations.NopOnlySetsDone
  refine ⟨exec_nop, decode_nop_iff, fun s rest hin => ⟨fun herr => ?_, step_cmd_halted hin⟩⟩
  rw [step_cmd_legal hin herr ((decode_nop_iff 0#32).mpr rfl), exec_nop, State.setDone]

end Sys2Proof.Machine
end

section
/-! PROOFS. What the host reads in the register file after a reset event (70_reset_and_hazards.md
R341). -/

namespace Sys2Proof.Machine

open Sys2Proof

/-- A reset event keeps the noise table and the events still waiting, and nothing else (R346). -/
theorem step_rst {s : State} {contents : List Host.Cell} {rest : List HostEvent}
    (hin : s.inbox = .rst contents :: rest) :
    step s = .next (State.afterReset s.noise (Memory.ofCells contents) rest) :=
  step_serve hin

@[simp] theorem State.afterReset_acc (z : List Half) (m : Memory) (q : List HostEvent) (k : Acc) :
    (State.afterReset z m q).acc k = 0 := by
  cases k <;> rfl

/-- `ID` and `CFG` are the only registers with a reset value other than 0 (R341). -/
theorem State.readReg_afterReset (z : List Half) (m : Memory) (q : List HostEvent) {r : Reg}
    (hid : r ≠ .id) (hcfg : r ≠ .cfg) : (State.afterReset z m q).readReg r = 0#32 := by
  cases r with
  | id => exact absurd rfl hid
  | cfg => exact absurd rfl hcfg
  | accLo k => rw [State.readReg, State.afterReset_acc]; rfl
  | accHi k => rw [State.readReg, State.afterReset_acc]; rfl
  | status | irqEn | cmd | errCode | errInfo | opacity | colorR | colorG | colorB | colorA | dstX
  | dstY => rfl

/-- Each register offset but the first two holds a register that is neither `ID` nor `CFG` (R21). -/
theorem Reg.exists_ofAddr_not_constant {a : Nat} (ha : a ∈ registerOffsets) (hid : a ≠ 0x000)
    (hcfg : a ≠ 0x004) : ∃ r, Reg.ofAddr a = some r ∧ r ≠ .id ∧ r ≠ .cfg := by
  obtain ⟨r, hr⟩ := Option.isSome_iff_exists.mp (Reg.ofAddr_isSome.mpr ha)
  have constants : ∀ x ∈ registerOffsets,
      (Reg.ofAddr x = some .id → x = 0x000) ∧ (Reg.ofAddr x = some .cfg → x = 0x004) := by decide
  obtain ⟨id_at, cfg_at⟩ := constants a ha
  refine ⟨r, hr, ?_, ?_⟩
  · rintro rfl
    exact hid (id_at hr)
  · rintro rfl
    exact hcfg (cfg_at hr)

/-- The reset state, and every state a reset event leads to, is `State.afterReset` of some noise
table, memory and waiting events. -/
theorem eq_afterReset {t : State}
    (h : t = State.reset ∨ ∃ s contents rest, s.inbox = .rst contents :: rest ∧ step s = .next t) :
    ∃ z m q, t = State.afterReset z m q := by
  obtain rfl | ⟨s, contents, rest, hin, hstep⟩ := h
  · exact ⟨_, _, _, rfl⟩
  · rw [step_rst hin] at hstep
    exact ⟨_, _, _, (Host.Outcome.next.inj hstep).symm⟩

/-- Settles O9: a register read answers the register's value, which in `State.afterReset` is 0 but
for the two constants, whatever the noise table, the memory and the waiting events. -/
theorem registersAfterReset : Obligations.RegistersAfterReset := by
  unfold Obligations.RegistersAfterReset
  intro t ht
  obtain ⟨z, m, q, rfl⟩ := eq_afterReset ht
  refine ⟨State.hostRead_reg (r := .id) _ rfl, State.hostRead_reg (r := .cfg) _ rfl,
    fun a ha hid hcfg => ?_⟩
  obtain ⟨r, hr, hrid, hrcfg⟩ := Reg.exists_ofAddr_not_constant ha hid hcfg
  rw [State.hostRead_reg _ hr, State.readReg_afterReset z m q hrid hrcfg]

end Sys2Proof.Machine
end

section
/-! PROOFS. The encoder and the decoder are inverse (30_encoding.md R91, R92, R97): a word and its
fields determine each other, and each form of an instruction fills and checks the same fields. -/

namespace Sys2Proof

/-! ### From an instruction to its word and back -/

/-- The fields of a command word: those it was put together from (R91). -/
theorem Fields.ofWord_commandWord (opc : BitVec 8) (ha : Bool) (sc sb sa : Slot) :
    Fields.ofWord (commandWord opc ha sc sb sa) = ⟨opc, 0, BitVec.ofBool ha, 0, sc, sb, sa⟩ :=
  Fields.ofWord_toWord ⟨opc, 0, BitVec.ofBool ha, 0, sc, sb, sa⟩

theorem Fields.guarded_of_fits {f : Fields} {u : FieldUse} (h : f.Fits u) (i : Instr) :
    f.guarded u.ha u.sb u.sc u.sa i = .ok i := by
  obtain ⟨j, hj⟩ := (f.guarded_ok_iff u i).mpr h
  rw [hj, Fields.guarded_ok_eq hj]

theorem Fields.formComp_fill (opc : BitVec 8) (c : Bool → Slot → Slot → Instr) (ha : Bool)
    (sa sb : Slot) :
    Fields.formComp ⟨opc, 0, BitVec.ofBool ha, 0, 0, sb, sa⟩ c = .ok (c ha sa sb) := by
  have hbit : (BitVec.ofBool ha == 1#1) = ha := by cases ha <;> rfl
  rw [Fields.formComp, hbit]
  exact Fields.guarded_of_fits (u := .comp) (by simp [Fields.Fits, FieldUse.comp]) _

theorem Fields.formA_fill (opc : BitVec 8) (c : Slot → Instr) (sa : Slot) :
    Fields.formA ⟨opc, 0, 0, 0, 0, 0, sa⟩ c = .ok (c sa) :=
  Fields.guarded_of_fits (u := .a) (by simp [Fields.Fits, FieldUse.a]) _

theorem Fields.formAB_fill (opc : BitVec 8) (c : Slot → Slot → Instr) (sa sb : Slot) :
    Fields.formAB ⟨opc, 0, 0, 0, 0, sb, sa⟩ c = .ok (c sa sb) :=
  Fields.guarded_of_fits (u := .ab) (by simp [Fields.Fits, FieldUse.ab]) _

theorem Fields.formABC_fill (opc : BitVec 8) (c : Slot → Slot → Slot → Instr) (sa sb sc : Slot) :
    Fields.formABC ⟨opc, 0, 0, 0, sc, sb, sa⟩ c = .ok (c sa sb sc) :=
  Fields.guarded_of_fits (u := .abc) (by simp [Fields.Fits, FieldUse.abc]) _

/-- Settles O1, by the form of the instruction: its word has the fields it was built from, the opcode
selects the form, and the form's check passes on the fields left zero. -/
theorem decodeOfEncode : Obligations.DecodeOfEncode := by
  unfold Obligations.DecodeOfEncode
  intro i
  cases i with
  | nop =>
    rw [encode, decode, Fields.ofWord_commandWord]
    rfl
  | compNormal ha sa sb | compMultiply ha sa sb | compScreen ha sa sb | compDarken ha sa sb
  | compLighten ha sa sb | compOverlay ha sa sb | compHardlight ha sa sb | compSoftlight ha sa sb
  | compColordodge ha sa sb | compColorburn ha sa sb | compDifference ha sa sb
  | compExclusion ha sa sb | compHue ha sa sb | compSaturation ha sa sb | compColor ha sa sb
  | compLuminosity ha sa sb =>
    rw [encode, decode, Fields.ofWord_commandWord]
    exact Fields.formComp_fill _ _ ha sa sb
  | dabn sa | dabe sa | dabl sa | dabacc sa | tclr16 sa | tclr8 sa =>
    rw [encode, decode, Fields.ofWord_commandWord]
    exact Fields.formA_fill _ _ sa
  | cv16to8 sa sb | cv16to8x sa sb | cv8to16 sa sb | tcpy16 sa sb | tcpy8 sa sb | flat sa sb
  | unflat sa sb | downs sa sb =>
    rw [encode, decode, Fields.ofWord_commandWord]
    exact Fields.formAB_fill _ _ sa sb
  | strk sa sb sc =>
    rw [encode, decode, Fields.ofWord_commandWord]
    exact Fields.formABC_fill _ _ sa sb sc

/-! ### From a word to its instruction and back -/

/-- What a form accepts has its unused fields zero. -/
theorem Fields.fits_of_guarded {f : Fields} (u : FieldUse) {i j : Instr}
    (h : f.guarded u.ha u.sb u.sc u.sa i = .ok j) : f.Fits u :=
  (f.guarded_ok_iff u i).mp ⟨j, h⟩

/-- A word whose fields fit is the command word of its fields, the unused ones zero. -/
theorem Fields.toWord_of_fits {f : Fields} {u : FieldUse} (h : f.Fits u) :
    f.toWord = commandWord f.opc (u.ha && f.ha == 1#1) (if u.sc then f.sc else 0)
      (if u.sb then f.sb else 0) (if u.sa then f.sa else 0) := by
  obtain ⟨hz1, hz2, hha, hsc, hsb, hsa⟩ := h
  have zero_else {n : Nat} (used : Bool) (x : BitVec n) (hx : used = false → x = 0) :
      (if used then x else 0) = x := by
    cases used with
    | true => rfl
    | false => exact (hx rfl).symm
  have bit : ∀ x : BitVec 1, BitVec.ofBool (x == 1#1) = x := by decide
  have haBit : BitVec.ofBool (u.ha && f.ha == 1#1) = f.ha := by
    cases hu : u.ha with
    | true => exact bit f.ha
    | false => exact (hha hu).symm
  rw [commandWord, haBit, zero_else _ _ hsc, zero_else _ _ hsb, zero_else _ _ hsa, Fields.toWord,
    hz1, hz2]
  rfl

theorem Fields.formNone_ok {f : Fields} {i j : Instr} (h : f.formNone i = .ok j) :
    i = j ∧ f.toWord = commandWord f.opc false 0 0 0 :=
  ⟨Fields.guarded_ok_eq h, by
    simpa [FieldUse.nothing] using Fields.toWord_of_fits (Fields.fits_of_guarded .nothing h)⟩

theorem Fields.formComp_ok {f : Fields} {c : Bool → Slot → Slot → Instr} {j : Instr}
    (h : f.formComp c = .ok j) :
    c (f.ha == 1#1) f.sa f.sb = j ∧ f.toWord = commandWord f.opc (f.ha == 1#1) 0 f.sb f.sa :=
  ⟨Fields.guarded_ok_eq h, by
    simpa [FieldUse.comp] using Fields.toWord_of_fits (Fields.fits_of_guarded .comp h)⟩

theorem Fields.formA_ok {f : Fields} {c : Slot → Instr} {j : Instr} (h : f.formA c = .ok j) :
    c f.sa = j ∧ f.toWord = commandWord f.opc false 0 0 f.sa :=
  ⟨Fields.guarded_ok_eq h, by
    simpa [FieldUse.a] using Fields.toWord_of_fits (Fields.fits_of_guarded .a h)⟩

theorem Fields.formAB_ok {f : Fields} {c : Slot → Slot → Instr} {j : Instr}
    (h : f.formAB c = .ok j) :
    c f.sa f.sb = j ∧ f.toWord = commandWord f.opc false 0 f.sb f.sa :=
  ⟨Fields.guarded_ok_eq h, by
    simpa [FieldUse.ab] using Fields.toWord_of_fits (Fields.fits_of_guarded .ab h)⟩

theorem Fields.formABC_ok {f : Fields} {c : Slot → Slot → Slot → Instr} {j : Instr}
    (h : f.formABC c = .ok j) :
    c f.sa f.sb f.sc = j ∧ f.toWord = commandWord f.opc false f.sc f.sb f.sa :=
  ⟨Fields.guarded_ok_eq h, by
    simpa [FieldUse.abc] using Fields.toWord_of_fits (Fields.fits_of_guarded .abc h)⟩

/-- The fields an instruction is read from are those of its own word, by the row of its opcode. -/
theorem Fields.encode_of_decode {f : Fields} {i : Instr} (h : f.decode = .ok i) :
    encode i = f.toWord := by
  have opcode {n : Nat} (hopc : f.opc.toNat = n) : f.opc = BitVec.ofNat 8 n := by
    rw [← hopc, BitVec.ofNat_toNat, BitVec.setWidth_eq]
  unfold Fields.decode at h
  split at h
  case h_1 hopc =>
    obtain ⟨rfl, hw⟩ := Fields.formNone_ok h
    rw [hw, opcode hopc]
    rfl
  case h_2 hopc | h_3 hopc | h_4 hopc | h_5 hopc | h_6 hopc | h_7 hopc | h_8 hopc | h_9 hopc
  | h_10 hopc | h_11 hopc | h_12 hopc | h_13 hopc | h_14 hopc | h_15 hopc | h_16 hopc | h_17 hopc =>
    obtain ⟨rfl, hw⟩ := Fields.formComp_ok h
    rw [hw, opcode hopc]
    rfl
  case h_18 hopc | h_19 hopc | h_20 hopc | h_21 hopc | h_26 hopc | h_28 hopc =>
    obtain ⟨rfl, hw⟩ := Fields.formA_ok h
    rw [hw, opcode hopc]
    rfl
  case h_22 hopc | h_23 hopc | h_24 hopc | h_25 hopc | h_27 hopc | h_29 hopc | h_30 hopc
  | h_31 hopc =>
    obtain ⟨rfl, hw⟩ := Fields.formAB_ok h
    rw [hw, opcode hopc]
    rfl
  case h_32 hopc =>
    obtain ⟨rfl, hw⟩ := Fields.formABC_ok h
    rw [hw, opcode hopc]
    rfl
  case h_33 => cases h

/-- Settles O2: the fields that decode give back the instruction's word, and a word is determined by
its fields. -/
theorem encodeOfDecode : Obligations.EncodeOfDecode := by
  unfold Obligations.EncodeOfDecode
  intro w i h
  rw [Fields.encode_of_decode h, Fields.toWord_ofWord]

/-- Settles O4: each of the seven words is the one the encoder writes for its instruction. -/
theorem decodeKnownWords : Obligations.DecodeKnownWords := by
  unfold Obligations.DecodeKnownWords
  exact ⟨decodeOfEncode .nop, decodeOfEncode (.compMultiply true 1#4 0#4),
    decodeOfEncode (.dabacc 2#4), decodeOfEncode (.cv16to8 1#4 2#4),
    decodeOfEncode (.unflat 3#4 0#4), decodeOfEncode (.downs 1#4 0#4),
    decodeOfEncode (.strk 0#4 2#4 3#4)⟩

end Sys2Proof
end

section
/-! PROOFS. How a command can end (30_encoding.md R93, R94, R96, 60_exceptions.md R306, R307): whatever
its data phase does, it writes inside its destination slot, keeps the memory canonical, and raises a
fault with one of the codes 2 to 9 or none. -/

namespace Sys2Proof.Machine

open Sys2Proof

/-! ### Writing inside a slot -/

/-- `m'` differs from `m` inside the slot `d` only (nowhere for `none`), and is canonical and inside
the map where `m` is. -/
structure Stays (d : Option (MemKind × Slot)) (m m' : Memory) : Prop where
  frame : ∀ x, (∀ f, d = some f → ¬ inSlot f x) → m'.read x = m.read x
  mapped : m.Mapped → m'.Mapped

theorem Stays.refl (d : Option (MemKind × Slot)) (m : Memory) : Stays d m m :=
  ⟨fun _ _ => rfl, id⟩

theorem Stays.trans {d : Option (MemKind × Slot)} {m n k : Memory} (h : Stays d m n)
    (h' : Stays d n k) : Stays d m k :=
  ⟨fun x hx => (h'.frame x hx).trans (h.frame x hx), fun hm => h'.mapped (h.mapped hm)⟩

theorem Stays.setPixel16 {s : Slot} (hs : s.toNat < 4) {i : Nat} (hi : i < 4096) (p : Pixel)
    (m : Memory) : Stays (some (.t16, s)) m (m.setPixel16 s i p) :=
  ⟨fun _ hx => Memory.read_setPixel16_frame (foot16_inSlot (hx _ rfl) i hi),
    fun h => h.setPixel16 s hs i hi p⟩

theorem Stays.setColour16 {s : Slot} (hs : s.toNat < 4) {i : Nat} (hi : i < 4096) (c : Rgb)
    (m : Memory) : Stays (some (.t16, s)) m (m.setColour16 s i c) :=
  ⟨fun _ hx => Memory.read_setColour16_frame (foot16_inSlot (hx _ rfl) i hi),
    fun h => h.setColour16 s hs i hi c⟩

theorem Stays.setPixel8 {s : Slot} (hs : s.toNat < 2) {i : Nat} (hi : i < 4096) (p : Pixel)
    (m : Memory) : Stays (some (.t8, s)) m (m.setPixel8 s i p) :=
  ⟨fun _ hx => Memory.read_setPixel8_frame (foot8_inSlot (hx _ rfl) i hi),
    fun h => h.setPixel8 s hs i hi p⟩

theorem Stays.setSm {s : Slot} (hs : s.toNat < 1) {i : Nat} (hi : i < 4096) (v : Nat)
    (m : Memory) : Stays (some (.sm, s)) m (m.setSm s i v) :=
  ⟨fun _ hx => Memory.read_setSm_frame (footSm_inSlot (hx _ rfl) i hi),
    fun h => h.setSm s hs i v hi⟩

/-! ### The faults a command raises -/

/-- A fault that a command can raise: every code but 0 and `ILLEGAL_CMD` (60_exceptions.md R301). -/
def FaultRec.OfCommand (f : FaultRec) : Prop := 2 ≤ f.cause.code ∧ f.cause.code ≤ 9

theorem ofCommand_badSlot {n : Nat} {l : List (MemKind × Slot)} {f : FaultRec}
    (h : badSlotFrom n l = some f) : f.OfCommand := by
  rw [FaultRec.OfCommand, badSlotFrom_cause h]
  decide

theorem ofCommand_check {p : Pixel} {l : Level} {o : Operand} {i : Nat} {f : FaultRec}
    (h : p.check l o i = some f) : f.OfCommand := by
  rcases (Pixel.check_fault h).1 with hc | hc <;> rw [FaultRec.OfCommand, hc] <;> decide

theorem ofCommand_or {x y : Option FaultRec} (hx : ∀ f, x = some f → f.OfCommand)
    (hy : ∀ f, y = some f → f.OfCommand) : ∀ f, x.or y = some f → f.OfCommand := by
  intro f h
  rcases Option.or_eq_some_iff.mp h with h | ⟨_, h⟩
  · exact hx f h
  · exact hy f h

theorem ofCommand_maskFault {c : Cause} {j : Nat}
    (h : c = .maskValue ∨ c = .maskRange ∨ c = .maskOverrun) : (maskFault c j).OfCommand := by
  rw [FaultRec.OfCommand, show (maskFault c j).cause = c from rfl]
  rcases h with rfl | rfl | rfl <;> decide

/-! ### The end of a data phase -/

/-- A data phase that left `s` with a memory changed inside slot `d`, and with a fault or none. -/
def BodyEnds (d : Option (MemKind × Slot)) (s : State) (r : State × Option FaultRec) : Prop :=
  ∃ m o, r = (s.withMem m, o) ∧ Stays d s.mem m ∧ ∀ f, o = some f → f.OfCommand

/-- A command that left `s` so, with `DONE` or with its fault raised. -/
def CommandEnds (d : Option (MemKind × Slot)) (s t : State) : Prop :=
  ∃ m o, t = (s.withMem m).finish o ∧ Stays d s.mem m ∧ ∀ f, o = some f → f.OfCommand

theorem BodyEnds.unchanged {d : Option (MemKind × Slot)} {s : State} {o : Option FaultRec}
    (ho : ∀ f, o = some f → f.OfCommand) : BodyEnds d s (s, o) :=
  ⟨s.mem, o, rfl, .refl d s.mem, ho⟩

theorem BodyEnds.overMem {d : Option (MemKind × Slot)} {s : State}
    {g : Memory → Memory × Option FaultRec} (hm : Stays d s.mem (g s.mem).1)
    (ho : ∀ f, (g s.mem).2 = some f → f.OfCommand) : BodyEnds d s (s.overMem g) :=
  ⟨_, _, rfl, hm, ho⟩

/-- A command ends as its data phase does, which only starts when every slot exists. -/
theorem CommandEnds.command {d : Option (MemKind × Slot)} {s : State} {slots : List (MemKind × Slot)}
    {body : State → State × Option FaultRec}
    (h : slots.all slotLegal = true → BodyEnds d s (body s)) :
    CommandEnds d s (s.command slots body) := by
  cases hbad : badSlotFrom 0 slots with
  | some f =>
    exact ⟨s.mem, some f, State.command_bad body hbad, .refl d s.mem, fun g hg =>
      Option.some.inj hg ▸ ofCommand_badSlot hbad⟩
  | none =>
    have hall := (badSlotFrom_eq_none 0 slots).mp hbad
    obtain ⟨m, o, hbody, hstay, ho⟩ := h hall
    exact ⟨m, o, by rw [State.command_ok body hall, hbody], hstay, ho⟩

theorem slots_head {k : MemKind} {a : Slot} {rest : List (MemKind × Slot)}
    (h : ((k, a) :: rest).all slotLegal = true) : a.toNat < k.slots := by
  rw [List.all_cons, Bool.and_eq_true, slotLegal_iff] at h
  exact h.1

/-! ### Scans and traversals -/

section scans

variable {d : Option (MemKind × Slot)} {fault : Nat → Memory → Option FaultRec}
  {store : Nat → Memory → Memory}

/-- A scan of checked positions ends as its checks and its stores do. -/
theorem BodyEnds.scanFrom {s : State} {n : Nat}
    (hfault : ∀ i m f, fault i m = some f → f.OfCommand)
    (hstore : ∀ i m, i < n → Stays d m (store i m)) :
    BodyEnds d s (s.overMem (scanFrom (fun i m => checked (fault i m) (store i m)) 0 n)) := by
  refine .overMem ?_ fun f => ?_
  · refine scanFrom_keeps (Stays d s.mem) n 0 s.mem (fun j m m' _ hj hm hok => ?_) (.refl d s.mem)
    obtain ⟨_, rfl⟩ := checked_ok.mp hok
    exact hm.trans (hstore j m (by omega))
  · exact scanFrom_fault FaultRec.OfCommand n 0 s.mem
      (fun j m f _ _ herr => hfault j m f (checked_error.mp herr)) f

/-- The same of the scan of a whole tile. -/
theorem BodyEnds.scanTile {s : State} (hfault : ∀ i m f, fault i m = some f → f.OfCommand)
    (hstore : ∀ i m, i < 4096 → Stays d m (store i m)) :
    BodyEnds d s (s.overMem (scanTile fun i m => checked (fault i m) (store i m))) :=
  BodyEnds.scanFrom (n := 4096) hfault hstore

end scans

/-- The traversal of a paint command over the first `n` words of a mask ends as its stores do. -/
theorem BodyEnds.maskWalk {d : Option (MemKind × Slot)} {s : State}
    {store : Nat → DabIn → Memory → Memory} (op : Nat) (col : Rgb) (sa : Slot) (n : Nat)
    (hstore : ∀ p x m, p < 4096 → Stays d m (store p x m)) :
    BodyEnds d s (s.overMem fun m =>
      maskWalk m.mask (fun p => paintPixel (store p) op col sa p) n 0 0 m) := by
  refine .overMem ?_ fun f => ?_
  · refine maskWalk_keeps (Stays d s.mem) (fun p v m m' hp _ _ hm hok => ?_) _ _ _ _ (.refl d s.mem)
    obtain ⟨_, rfl⟩ := checked_ok.mp hok
    exact hm.trans (hstore p _ m hp)
  · exact maskWalk_fault FaultRec.OfCommand
      (fun p v m f herr => ofCommand_check (checked_error.mp herr))
      (fun c j hc => ofCommand_maskFault hc) _ _ _ _ f

/-! ### The commands -/

theorem composite_ends (colour : CompIn → Rgb) (ha : Bool) (sa sb : Slot) (s : State) :
    CommandEnds (some (.t16, sa)) s (composite colour ha sa sb s) := by
  refine .command fun hall => ?_
  have hsa : sa.toNat < 4 := slots_head hall
  split
  · exact .unchanged fun _ h => by cases h
  · refine .scanTile (fun i m => ofCommand_or (fun _ => ofCommand_check) fun _ => ofCommand_check)
      fun i m hi => ?_
    cases ha with
    | true => exact .setPixel16 hsa hi _ m
    | false => exact .setColour16 hsa hi _ m

theorem paint_ends {store : Nat → DabIn → Memory → Memory} (sa : Slot) (s : State)
    (hstore : sa.toNat < 4 → ∀ p x m, p < 4096 → Stays (some (.t16, sa)) m (store p x m)) :
    CommandEnds (some (.t16, sa)) s (paint store sa s) :=
  .command fun hall => .maskWalk _ _ _ Config.maskWords (hstore (slots_head hall))

/-- A command whose data phase is the scan of a tile. -/
theorem scan_ends {k : MemKind} {sa : Slot} {rest : List (MemKind × Slot)}
    {fault : State → Nat → Memory → Option FaultRec} {store : State → Nat → Memory → Memory}
    (s : State) (hfault : ∀ i m f, fault s i m = some f → f.OfCommand)
    (hstore : sa.toNat < k.slots → ∀ i m, i < 4096 → Stays (some (k, sa)) m (store s i m)) :
    CommandEnds (some (k, sa)) s (s.command ((k, sa) :: rest) fun s =>
      s.overMem (scanTile fun i m => checked (fault s i m) (store s i m))) :=
  .command fun hall => .scanTile hfault (hstore (slots_head hall))

theorem downsPre_ofCommand {sa sb : Slot} {s : State} {f : FaultRec}
    (h : downsPre sa sb s = some f) : f.OfCommand := by
  unfold downsPre at h
  split_ifs at h <;> cases h <;> exact ⟨by decide, by decide⟩

theorem downsTarget_lt {dx dy x y : Nat} (hdx : dx ≤ 32) (hdy : dy ≤ 32) (hx : x < 32)
    (hy : y < 32) : downsTarget dx dy x y < 4096 := by
  have hN : Config.tileN = 64 := rfl
  rw [downsTarget, hN]
  omega

theorem downs_ends (sa sb : Slot) (s : State) :
    CommandEnds (some (.t16, sa)) s (s.command [(.t16, sa), (.t16, sb)] fun s =>
      match downsPre sa sb s with
      | some f => (s, some f)
      | none => s.overMem (downsWindow s.dstX.toNat s.dstY.toNat sa sb)) := by
  refine .command fun hall => ?_
  have hsa : sa.toNat < 4 := slots_head hall
  cases hpre : downsPre sa sb s with
  | some f => exact .unchanged fun g hg => Option.some.inj hg ▸ downsPre_ofCommand hpre
  | none =>
    have hdst : s.dstX.toNat ≤ 32 ∧ s.dstY.toNat ≤ 32 := by
      unfold downsPre at hpre
      split_ifs at hpre with _ hx hy
      exact ⟨Nat.le_of_not_lt hx, Nat.le_of_not_lt hy⟩
    refine BodyEnds.scanFrom (n := 1024) (fun w m => ?_) fun w m hw => ?_
    · exact ofCommand_or (ofCommand_or (fun _ => ofCommand_check) fun _ => ofCommand_check)
        (ofCommand_or (fun _ => ofCommand_check) fun _ => ofCommand_check)
    · have hhalf : Config.half = 32 := rfl
      exact .setPixel16 hsa
        (downsTarget_lt hdst.1 hdst.2 (Nat.mod_lt _ (by decide)) (by rw [hhalf]; omega)) _ m

theorem dabacc_ends (sa : Slot) (s : State) :
    (∃ t, exec (.dabacc sa) s = .next t ∧ CommandEnds none s t) ∨
      ∃ x, exec (.dabacc sa) s = .next (s.commit x).setDone := by
  by_cases h : sa.toNat < 4 ∧ ∃ visits, MaskEnds s.mem.mask visits ∧
      s.mem.VisitedPixels sa visits Pixel.Range4
  case pos =>
    obtain ⟨hsa, visits, hends, hrange⟩ := h
    exact .inr ⟨_, exec_dabacc_completes hsa hends hrange⟩
  case neg =>
    obtain ⟨f, hcause, hexec⟩ := exec_dabacc_faults h
    exact .inl ⟨_, hexec, s.mem, some f, rfl, .refl none s.mem,
      fun g hg => Option.some.inj hg ▸ dabaccCauses_code _ hcause⟩

/-- Every command ends over a memory changed in its destination slot only, in `DONE` or in a fault of
its own; a `DABACC` that completes commits its sums. -/
theorem exec_ends (i : Instr) (s : State) :
    (∃ t, exec i s = .next t ∧ CommandEnds (destOf i) s t) ∨
      ∃ sa x, i = .dabacc sa ∧ exec i s = .next (s.commit x).setDone := by
  have noFault (i : Nat) (m : Memory) (f : FaultRec) (h : none = some f) : f.OfCommand := by cases h
  have twoChecks {p q : Pixel} {l l' : Level} {o o' : Operand} {i : Nat} :=
    ofCommand_or (fun _ => ofCommand_check (p := p) (l := l) (o := o) (i := i))
      fun _ => ofCommand_check (p := q) (l := l') (o := o') (i := i)
  cases i with
  | nop => exact .inl ⟨_, rfl, .command fun _ => .unchanged fun _ h => by cases h⟩
  | compNormal | compMultiply | compScreen | compDarken | compLighten | compOverlay | compHardlight
  | compSoftlight | compColordodge | compColorburn | compDifference | compExclusion | compHue
  | compSaturation | compColor | compLuminosity => exact .inl ⟨_, rfl, composite_ends _ _ _ _ s⟩
  | dabn sa | dabe sa =>
    exact .inl ⟨_, rfl, paint_ends sa s fun hsa _ _ m hp => .setPixel16 hsa hp _ m⟩
  | dabl sa => exact .inl ⟨_, rfl, paint_ends sa s fun hsa _ _ m hp => .setColour16 hsa hp _ m⟩
  | dabacc sa =>
    rcases dabacc_ends sa s with h | ⟨x, h⟩
    · exact .inl h
    · exact .inr ⟨sa, x, rfl, h⟩
  | cv16to8 | cv16to8x =>
    exact .inl ⟨_, rfl, scan_ends s (fun _ _ _ => ofCommand_check)
      fun hsa _ m hi => .setPixel8 hsa hi _ m⟩
  | cv8to16 | tcpy16 | tclr16 =>
    exact .inl ⟨_, rfl, scan_ends (fault := fun _ _ _ => none) s noFault
      fun hsa _ m hi => .setPixel16 hsa hi _ m⟩
  | tcpy8 | tclr8 =>
    exact .inl ⟨_, rfl, scan_ends (fault := fun _ _ _ => none) s noFault
      fun hsa _ m hi => .setPixel8 hsa hi _ m⟩
  | flat =>
    exact .inl ⟨_, rfl, scan_ends s (fun _ _ => twoChecks)
      fun hsa _ m hi => .setColour16 hsa hi _ m⟩
  | unflat =>
    exact .inl ⟨_, rfl, scan_ends s (fun _ _ => twoChecks)
      fun hsa _ m hi => .setPixel16 hsa hi _ m⟩
  | downs sa sb => exact .inl ⟨_, rfl, downs_ends sa sb s⟩
  | strk =>
    exact .inl ⟨_, rfl, scan_ends s (fun _ _ => twoChecks)
      fun hsa _ m hi => .setSm hsa hi _ m⟩

/-- Settles O20, by how the command ends (`exec_ends`). -/
theorem commandCompletesOrFaults : Obligations.CommandCompletesOrFaults := by
  unfold Obligations.CommandCompletesOrFaults
  intro i s
  rcases exec_ends i s with ⟨t, hexec, m, o, rfl, hstay, ho⟩ | ⟨sa, x, rfl, hexec⟩
  · refine ⟨m, ?_, hstay.frame⟩
    cases o with
    | none => exact .inl hexec
    | some f =>
      obtain ⟨hlo, hhi⟩ := ho f rfl
      exact .inr (.inr ⟨_, _, hlo, hhi, hexec⟩)
  · exact ⟨s.mem, .inr (.inl ⟨sa, x.w, x.r, x.g, x.b, x.a, rfl, hexec⟩), fun _ _ => rfl⟩

/-! ### The first missing slot -/

/-- The slot check reports the first field that names no slot, at its position. -/
theorem badSlotFrom_first {l : List (MemKind × Slot)} {k n : Nat} {f : MemKind × Slot}
    (hf : l[n]? = some f) (hbad : f.1.slots ≤ f.2.toNat)
    (hfirst : ∀ j, j < n → ∀ g, l[j]? = some g → g.2.toNat < g.1.slots) :
    badSlotFrom k l = some ⟨.badSlot, 0, 0, k + n⟩ := by
  induction l generalizing k n with
  | nil => cases hf
  | cons g rest ih =>
    cases n with
    | zero =>
      cases hf
      exact badSlotFrom_cons_missing rest (Nat.not_lt.mpr hbad)
    | succ n =>
      rw [badSlotFrom_cons_present rest (hfirst 0 (by omega) g rfl),
        ih hf fun j hj => hfirst (j + 1) (by omega), Nat.add_assoc, Nat.add_comm 1 n]

/-- Settles O22: the slot check comes before every data phase and reports the first missing slot. -/
theorem badSlotReportsFirstField : Obligations.BadSlotReportsFirstField := by
  unfold Obligations.BadSlotReportsFirstField
  intro i s n f hf hbad hfirst
  obtain ⟨body, hexec⟩ := exec_eq_command i s
  have hn : n < 3 := by
    have hlt : n < i.slotFields.length := (List.getElem?_eq_some_iff.mp hf).1
    have hlen := slotFields_length_le i
    omega
  rw [hexec, State.command_bad body (badSlotFrom_first hf hbad hfirst), State.raise, Nat.zero_add,
    badSlot_info hn]
  rfl

end Sys2Proof.Machine
end

section
/-! PROOFS. The invariant of the machine (10_state.md R28, R29, R33, R44, 60_exceptions.md R301): the
reset state meets it, and each thing a step can do keeps it. -/

namespace Sys2Proof.Machine

open Sys2Proof

/-! ### Every step has a result -/

theorem exec_next (i : Instr) (s : State) : ∃ t, exec i s = .next t := by
  obtain ⟨body, hexec⟩ := exec_eq_command i s
  exact ⟨_, hexec⟩

theorem writeCmd_next (s : State) (w : Word) : ∃ t, s.writeCmd w = .next t := by
  cases herr : s.status.getLsbD 1 with
  | true => exact ⟨s, State.writeCmd_halted herr w⟩
  | false =>
    cases hd : decode w with
    | error e => exact ⟨_, State.writeCmd_illegal herr hd⟩
    | ok i =>
      rw [State.writeCmd_legal herr hd]
      exact exec_next i _

theorem writeReg_next (s : State) (v : Word) (r : Reg) : ∃ t, s.writeReg v r = .next t := by
  cases r with
  | cmd => exact writeCmd_next s v
  | id | cfg | status | irqEn | errCode | errInfo | opacity | colorR | colorG | colorB | colorA
  | dstX | dstY | accLo | accHi => exact ⟨_, rfl⟩

/-- A write serves a register, or stores bytes, or is refused. -/
theorem hostWrite_cases (s : State) (a : Nat) (n : Size) (v : Word) :
    (∃ r, s.hostWrite a n v = (s.answered .ok).writeReg v r) ∨
    (legalWrite a n = true ∧
      s.hostWrite a n v = .next ((s.answered .ok).withMem (s.mem.writeBytes a n.bytes v.toNat))) ∨
    s.hostWrite a n v = .next (s.answered .error) := by
  unfold State.hostWrite
  cases Reg.ofAddr a with
  | some r =>
    by_cases hn : n = .b4
    · exact .inl ⟨r, if_pos hn⟩
    · exact .inr (.inr (if_neg hn))
  | none =>
    by_cases hl : legalWrite a n = true
    · exact .inr (.inl ⟨hl, if_pos hl⟩)
    · exact .inr (.inr (if_neg hl))

theorem serve_next (s : State) (e : HostEvent) : ∃ t, s.serve e = .next t := by
  cases e with
  | read a n => exact ⟨_, rfl⟩
  | rst contents => exact ⟨_, rfl⟩
  | write a n v =>
    rcases hostWrite_cases s a.toNat n v with ⟨r, h⟩ | ⟨_, h⟩ | h
    · obtain ⟨t, ht⟩ := writeReg_next (s.answered .ok) v r
      exact ⟨t, h.trans ht⟩
    · exact ⟨_, h⟩
    · exact ⟨_, h⟩

theorem step_idle {s : State} (hin : s.inbox = []) : step s = .next s := by
  simp only [step, hin]

/-- Settles O6, by what the step serves. -/
theorem everyStepAnswersNext : Obligations.EveryStepAnswersNext := by
  unfold Obligations.EveryStepAnswersNext
  refine ⟨fun s => ?_, exec_next, fun s => step_idle⟩
  cases hin : s.inbox with
  | nil => exact ⟨s, step_idle hin⟩
  | cons e rest =>
    rw [step_serve hin]
    exact serve_next _ e

/-! ### The noise table -/

/-- The reference table lies in its band (10_state.md R44, R48). -/
theorem mem_noiseGen {n s : Nat} {v : Half} (h : v ∈ Config.noiseGen n s) :
    Config.noiseMin ≤ v.toNat ∧ v.toNat ≤ Config.noiseMax := by
  induction n generalizing s with
  | zero => cases h
  | succ n ih =>
    rw [Config.noiseGen] at h
    rcases List.mem_cons.mp h with rfl | h
    · rw [BitVec.toNat_ofNat, Config.noiseMin, Config.noiseMax]
      generalize (s * 1103515245 + 12345) % 2 ^ 31 / 2 ^ 16 = x
      omega
    · exact ih h

theorem length_noiseGen (n s : Nat) : (Config.noiseGen n s).length = n := by
  induction n generalizing s with
  | zero => rfl
  | succ n ih => rw [Config.noiseGen, List.length_cons, ih]

theorem noiseOk_noiseRef : noiseOk Config.noiseRef :=
  ⟨length_noiseGen _ _, fun _ => mem_noiseGen⟩

/-! ### What keeps the invariant -/

theorem State.Inv.mapped {s : State} (h : s.Inv) : s.mem.Mapped := ⟨h.memWf, h.memMapped⟩

/-- After a reset event every register is 0, so that the invariant is that of table and memory. -/
theorem Inv.afterReset {z : List Half} {m : Memory} (q : List HostEvent) (hz : noiseOk z)
    (hm : m.Mapped) : (State.afterReset z m q).Inv where
  memWf := hm.1
  memMapped := hm.2
  opacityLe := by simp
  colorRLe := by simp
  colorGLe := by simp
  colorBLe := by simp
  colorALe := by simp
  noise := hz
  faultClear _ := ⟨rfl, rfl⟩
  faultSet h := by simp [State.err] at h
  infoReserved := by rw [State.afterReset_errInfo]; rfl

/-- Settles O7: nothing is listed in memory, and the reference table lies in its band. -/
theorem resetMeetsInvariant : Obligations.ResetMeetsInvariant := by
  unfold Obligations.ResetMeetsInvariant
  exact Inv.afterReset [] noiseOk_noiseRef ⟨rfl, by simp⟩

theorem Inv.withMem {s : State} (h : s.Inv) {m : Memory} (hm : m.Mapped) : (s.withMem m).Inv :=
  { h with memWf := hm.1, memMapped := hm.2 }

theorem Inv.answered {s : State} (h : s.Inv) (x : Answer) : (s.answered x).Inv := { h with }

theorem Inv.commit {s : State} (h : s.Inv) (x : Sums) : (s.commit x).Inv := { h with }

theorem Inv.setCmd {s : State} (h : s.Inv) (w : Word) : State.Inv { s with cmd := w } := { h with }

theorem Inv.setAcc {s : State} (h : s.Inv) (k : Acc) (v : BitVec 64) : (s.setAcc k v).Inv := by
  cases k <;> exact { h with }

/-- `DONE` is another flag than `ERR`. -/
theorem State.err_setDone (s : State) : s.setDone.err = s.err := by
  simp [State.err]

theorem Inv.setDone {s : State} (h : s.Inv) : s.setDone.Inv :=
  { h with
    faultClear := fun herr => h.faultClear (s.err_setDone ▸ herr)
    faultSet := fun herr => h.faultSet (s.err_setDone ▸ herr) }

theorem State.err_raise (s : State) (f : FaultRec) : (s.raise f).err = true := by
  simp [State.err]

/-- Bits 18 and 19 of every fault record are zero (10_state.md R29). -/
theorem FaultRec.info_reserved (f : FaultRec) : f.info.extractLsb' 18 2 = 0#2 := by
  unfold FaultRec.info
  ext i hi
  rw [BitVec.getElem_extractLsb']
  simp only [BitVec.getLsbD_append, BitVec.getLsbD_zero, BitVec.getElem_zero]
  grind

theorem Inv.raise {s : State} (h : s.Inv) {f : FaultRec} (hlo : 1 ≤ f.cause.code)
    (hhi : f.cause.code ≤ 9) : (s.raise f).Inv :=
  { h with
    faultClear := fun herr => by rw [State.err_raise] at herr; cases herr
    faultSet := fun _ => by rw [State.raise_errCode, BitVec.toNat_ofNat]; omega
    infoReserved := f.info_reserved }

theorem Inv.finish {s : State} (h : s.Inv) {o : Option FaultRec}
    (ho : ∀ f, o = some f → f.OfCommand) : (s.finish o).Inv := by
  cases o with
  | none => exact Inv.setDone h
  | some f =>
    obtain ⟨hlo, hhi⟩ := ho f rfl
    exact Inv.raise h (by omega) hhi

/-- A command keeps the invariant however it ends. -/
theorem Inv.exec {s t : State} (h : s.Inv) (i : Instr) (hexec : exec i s = .next t) : t.Inv := by
  rcases exec_ends i s with ⟨u, hu, m, o, rfl, hstay, ho⟩ | ⟨_, x, _, hu⟩
  · cases hu.symm.trans hexec
    exact Inv.finish (Inv.withMem h (hstay.mapped h.mapped)) ho
  · cases hu.symm.trans hexec
    exact Inv.setDone (Inv.commit h x)

/-- A write to `STATUS` clears the flags written as 1 (10_state.md R24). -/
theorem State.getLsbD_writeStatus (s : State) (v : Word) {k : Nat} (hk : k < 2) :
    (s.writeStatus v).status.getLsbD k = (s.status.getLsbD k && !v.getLsbD k) := by
  rw [State.writeStatus_status, BitVec.getLsbD_and, BitVec.getLsbD_not,
    BitVec.getLsbD_extractLsb', Nat.zero_add]
  simp only [hk, decide_true, Bool.true_and]

/-- Clearing `ERR` clears the fault registers with it (10_state.md R24). -/
theorem Inv.writeStatus {s : State} (h : s.Inv) (v : Word) : (s.writeStatus v).Inv := by
  by_cases hv : v.getLsbD 1 = true
  case pos =>
    have herr : (s.writeStatus v).err = false := State.writeStatus_clears_err s hv
    have hcode : (s.writeStatus v).errCode = 0 := if_pos hv
    have hinfo : (s.writeStatus v).errInfo = 0 := if_pos hv
    exact { h with
      faultClear := fun _ => ⟨hcode, hinfo⟩
      faultSet := fun hset => by rw [herr] at hset; cases hset
      infoReserved := by rw [hinfo]; rfl }
  case neg =>
    have herr : (s.writeStatus v).err = s.err := by
      rw [State.err, State.getLsbD_writeStatus s v (by decide), eq_false_of_ne_true hv,
        Bool.not_false, Bool.and_true, State.err]
    have hcode : (s.writeStatus v).errCode = s.errCode := if_neg hv
    have hinfo : (s.writeStatus v).errInfo = s.errInfo := if_neg hv
    exact { h with
      faultClear := fun hclear => by rw [hcode, hinfo]; exact h.faultClear (herr ▸ hclear)
      faultSet := fun hset => by rw [hcode]; exact h.faultSet (herr ▸ hset)
      infoReserved := by rw [hinfo]; exact h.infoReserved }

theorem Inv.writeCmd {s t : State} (h : s.Inv) {w : Word} (hw : s.writeCmd w = .next t) : t.Inv := by
  cases herr : s.status.getLsbD 1 with
  | true =>
    cases (State.writeCmd_halted herr w).symm.trans hw
    exact h
  | false =>
    cases hd : decode w with
    | error e =>
      cases (State.writeCmd_illegal herr hd).symm.trans hw
      exact Inv.raise (Inv.setCmd h w) (by decide) (by decide)
    | ok i => exact Inv.exec (Inv.setCmd h w) i ((State.writeCmd_legal herr hd).symm.trans hw)

theorem legalise_le (w : Word) : (legalise w).toNat ≤ 32768 := by
  rw [legalise_toNat]
  exact Nat.min_le_right _ _

theorem Inv.writeReg {s t : State} (h : s.Inv) {v : Word} {r : Reg}
    (hw : s.writeReg v r = .next t) : t.Inv := by
  cases r with
  | cmd => exact Inv.writeCmd h hw
  | status => cases hw; exact Inv.writeStatus h v
  | accLo k | accHi k => cases hw; exact Inv.setAcc h k _
  | opacity => cases hw; exact { h with opacityLe := legalise_le v }
  | colorR => cases hw; exact { h with colorRLe := legalise_le v }
  | colorG => cases hw; exact { h with colorGLe := legalise_le v }
  | colorB => cases hw; exact { h with colorBLe := legalise_le v }
  | colorA => cases hw; exact { h with colorALe := legalise_le v }
  | irqEn | dstX | dstY => cases hw; exact { h with }
  | id | cfg | errCode | errInfo => cases hw; exact h

/-- A legal write lies inside the writable memories with all its bytes. -/
theorem inWritable_of_legalWrite {a : Nat} {n : Size} (h : legalWrite a n = true) {j : Nat}
    (hj : j < n.bytes) : inWritable (a + j) = true := by
  obtain ⟨hram, halign⟩ := legalWrite_iff.mp h
  rw [inWritable_iff_inRam]
  unfold inRam at hram ⊢
  cases n <;> simp only [Size.bytes] at halign hj <;> omega

theorem Inv.serve {s t : State} (h : s.Inv) {e : HostEvent} (he : s.serve e = .next t) : t.Inv := by
  cases e with
  | read a n => cases he; exact Inv.answered h _
  | rst contents => cases he; exact Inv.afterReset _ h.noise (.ofCells contents)
  | write a n v =>
    rcases hostWrite_cases s a.toNat n v with ⟨r, hw⟩ | ⟨hlegal, hw⟩ | hw
    · exact Inv.writeReg (Inv.answered h .ok) (hw.symm.trans he)
    · cases hw.symm.trans he
      exact Inv.withMem (Inv.answered h .ok) (Memory.Mapped.writeBytes _ h.mapped _ _
        fun j => inWritable_of_legalWrite hlegal)
    · cases hw.symm.trans he
      exact Inv.answered h .error

/-- Settles O8, by the event the step serves: a register write, a store, a read, a refused access or
a reset event, each of which keeps the invariant. -/
theorem stepKeepsInvariant : Obligations.StepKeepsInvariant := by
  unfold Obligations.StepKeepsInvariant
  intro s t h hstep
  cases hin : s.inbox with
  | nil =>
    cases (step_idle hin).symm.trans hstep
    exact h
  | cons e rest =>
    have hpop : State.Inv { s with inbox := rest } := { h with }
    exact Inv.serve hpop ((step_serve hin).symm.trans hstep)

end Sys2Proof.Machine
end

section
/-! PROOFS. The host port (20_memory.md R66, R83): register reads and writes, reset events, and the
little-endian memories. -/

namespace Sys2Proof.Machine

open Sys2Proof

/-! ### The `CMD` and `STATUS` writes -/

/-- Settles O5: the register at that offset is `CMD`, whose write runs a word that decodes. -/
theorem stepRunsDecodedCommand : Obligations.StepRunsDecodedCommand := by
  unfold Obligations.StepRunsDecodedCommand
  exact fun _ _ _ _ => step_cmd_legal

/-- A step that serves a 4-byte write to `STATUS`. -/
theorem step_write_status {s : State} {v : Word} {rest : List HostEvent}
    (hin : s.inbox = .write 0x00008#20 .b4 v :: rest) :
    step s = .next (State.writeStatus { s with inbox := rest, answer := .ok } v) :=
  step_write_reg hin rfl

/-- Settles O12, by the two bits of the register. -/
theorem statusWriteClears : Obligations.StatusWriteClears := by
  unfold Obligations.StatusWriteClears
  intro s v rest hin
  refine ⟨(s.writeStatus v).status, step_write_status hin, ?_, ?_⟩
  · rw [State.getLsbD_writeStatus s v (by decide), Bool.and_eq_true, Bool.not_eq_true']
  · rw [State.getLsbD_writeStatus s v (by decide), Bool.and_eq_true, Bool.not_eq_true']

/-! ### Plain registers -/

theorem extractLsb'_zero_eq_ofNat {n : Nat} (v : Word) :
    v.extractLsb' 0 n = BitVec.ofNat n v.toNat := by
  apply BitVec.eq_of_toNat_eq
  rw [BitVec.extractLsb'_toNat, BitVec.toNat_ofNat, Nat.shiftRight_zero]

/-- The accumulator with its low word replaced. -/
theorem toNat_high_append (x : BitVec 64) (v : Word) :
    (x.extractLsb' 32 32 ++ v : BitVec 64).toNat = x.toNat / 2 ^ 32 * 2 ^ 32 + v.toNat := by
  have hx := x.isLt
  have hv := v.isLt
  rw [BitVec.toNat_append, ← Nat.shiftLeft_add_eq_or_of_lt hv, BitVec.extractLsb'_toNat,
    Nat.shiftLeft_eq, Nat.shiftRight_eq_div_pow]
  omega

/-- The accumulator with its high word replaced. -/
theorem toNat_append_low (x : BitVec 64) (v : Word) :
    (v ++ x.extractLsb' 0 32 : BitVec 64).toNat = v.toNat * 2 ^ 32 + x.toNat % 2 ^ 32 := by
  have hlow : (x.extractLsb' 0 32).toNat < 2 ^ 32 := BitVec.isLt _
  rw [BitVec.toNat_append, ← Nat.shiftLeft_add_eq_or_of_lt hlow, BitVec.extractLsb'_toNat,
    Nat.shiftLeft_eq, Nat.shiftRight_zero]

/-- Settles O14: each offset's register keeps the bits it has, or joins the half it is given to the
half it holds. -/
theorem plainRegisterWrites : Obligations.PlainRegisterWrites := by
  unfold Obligations.PlainRegisterWrites
  intro s v rest
  refine ⟨fun hin => ?_, fun hin => ?_, fun hin => ?_,
    fun hin => ⟨_, step_write_reg hin rfl, toNat_high_append _ v⟩,
    fun hin => ⟨_, step_write_reg hin rfl, toNat_append_low _ v⟩,
    fun hin => ⟨_, step_write_reg hin rfl, toNat_high_append _ v⟩,
    fun hin => ⟨_, step_write_reg hin rfl, toNat_append_low _ v⟩,
    fun hin => ⟨_, step_write_reg hin rfl, toNat_high_append _ v⟩,
    fun hin => ⟨_, step_write_reg hin rfl, toNat_append_low _ v⟩,
    fun hin => ⟨_, step_write_reg hin rfl, toNat_high_append _ v⟩,
    fun hin => ⟨_, step_write_reg hin rfl, toNat_append_low _ v⟩,
    fun hin => ⟨_, step_write_reg hin rfl, toNat_high_append _ v⟩,
    fun hin => ⟨_, step_write_reg hin rfl, toNat_append_low _ v⟩⟩
  · rw [step_write_reg (r := .irqEn) hin rfl, State.writeReg, extractLsb'_zero_eq_ofNat]
  · rw [step_write_reg (r := .dstX) hin rfl, State.writeReg, extractLsb'_zero_eq_ofNat]
  · rw [step_write_reg (r := .dstY) hin rfl, State.writeReg, extractLsb'_zero_eq_ofNat]

/-- The word of an accumulator from bit `k` on. -/
theorem extractLsb'_eq_ofNat (x : BitVec 64) (k : Nat) :
    x.extractLsb' k 32 = BitVec.ofNat 32 (x.toNat / 2 ^ k) := by
  apply BitVec.eq_of_toNat_eq
  rw [BitVec.extractLsb'_toNat, BitVec.toNat_ofNat, Nat.shiftRight_eq_div_pow]

/-- What a read of a register that is zero-extended answers. -/
theorem hostRead_extended (s : State) {a n : Nat} {r : Reg} (x : BitVec n)
    (hr : Reg.ofAddr a = some r) (hx : s.readReg r = x.setWidth 32) :
    s.hostRead a .b4 = .data (BitVec.ofNat 32 x.toNat) := by
  rw [State.hostRead_reg s hr, hx, BitVec.ofNat_toNat]

/-- What a read of a low accumulator word answers. -/
theorem hostRead_accLo (s : State) {a : Nat} {k : Acc} (hr : Reg.ofAddr a = some (.accLo k)) :
    s.hostRead a .b4 = .data (BitVec.ofNat 32 (s.acc k).toNat) := by
  rw [State.hostRead_reg s hr, State.readReg, extractLsb'_eq_ofNat, Nat.pow_zero, Nat.div_one]

/-- What a read of a high accumulator word answers. -/
theorem hostRead_accHi (s : State) {a : Nat} {k : Acc} (hr : Reg.ofAddr a = some (.accHi k)) :
    s.hostRead a .b4 = .data (BitVec.ofNat 32 ((s.acc k).toNat / 2 ^ 32)) := by
  rw [State.hostRead_reg s hr, State.readReg, extractLsb'_eq_ofNat]

/-- Settles O15: the register at each offset, read whole and zero-extended. -/
theorem registerReads : Obligations.RegisterReads := by
  unfold Obligations.RegisterReads
  intro s
  exact ⟨s.hostRead_reg (r := .id) rfl, s.hostRead_reg (r := .cfg) rfl,
    hostRead_extended s s.status rfl rfl, hostRead_extended s s.irqEn rfl rfl,
    s.hostRead_reg (r := .cmd) rfl, hostRead_extended s s.errCode rfl rfl,
    hostRead_extended s s.errInfo rfl rfl, hostRead_extended s s.opacity rfl rfl,
    hostRead_extended s s.colorR rfl rfl, hostRead_extended s s.colorG rfl rfl,
    hostRead_extended s s.colorB rfl rfl, hostRead_extended s s.colorA rfl rfl,
    hostRead_extended s s.dstX rfl rfl, hostRead_extended s s.dstY rfl rfl,
    hostRead_accLo s (k := .w) rfl, hostRead_accHi s (k := .w) rfl,
    hostRead_accLo s (k := .r) rfl, hostRead_accHi s (k := .r) rfl,
    hostRead_accLo s (k := .g) rfl, hostRead_accHi s (k := .g) rfl,
    hostRead_accLo s (k := .b) rfl, hostRead_accHi s (k := .b) rfl,
    hostRead_accLo s (k := .a) rfl, hostRead_accHi s (k := .a) rfl⟩

/-! ### Reset events -/

/-- Storing a byte below every listed offset puts it in front. -/
theorem Memory.write_below {c : Host.Cell} {m : Memory} (hc : c.2 ≠ 0#8)
    (hlt : ∀ d ∈ m, c.1 < d.1) : m.write c.1 c.2 = c :: m := by
  rw [Memory.write, Config.unwritten, if_neg hc]
  cases m with
  | nil => rfl
  | cons d rest => exact if_pos (hlt d List.mem_cons_self)

/-- A canonical memory inside the map is the contents it lists. -/
theorem Memory.ofCells_self {m : Memory} (hwf : m.wf = true) (hmap : ∀ c ∈ m, inRam c.1) :
    Memory.ofCells m = m := by
  induction m with
  | nil => rfl
  | cons c rest ih =>
    obtain ⟨hc, hlt, hrest⟩ := (Memory.wf_cons c rest).mp hwf
    obtain ⟨hhead, htail⟩ := List.forall_mem_cons.mp hmap
    rw [Memory.ofCells, if_pos (inWritable_iff_inRam.mpr hhead), ih hrest htail,
      Memory.write_below hc hlt]

/-- Settles O10: a reset event leads to `State.afterReset` of the table, the contents it carries and
the waiting events, and of nothing else. -/
theorem onlyNoiseSurvivesReset : Obligations.OnlyNoiseSurvivesReset := by
  unfold Obligations.OnlyNoiseSurvivesReset
  refine ⟨fun s s' contents rest hin hin' hnoise => ?_, fun m hwf hmap s rest hin => ?_⟩
  · refine ⟨_, step_rst hin, ?_, rfl, rfl, ?_, ?_⟩
    · rw [step_rst hin', hnoise]
    · rw [State.hostRead_reg (r := .id) _ rfl, State.hostRead_reg (r := .id) _ rfl]
      rfl
    · rw [State.hostRead_reg (r := .cfg) _ rfl, State.hostRead_reg (r := .cfg) _ rfl]
      rfl
  · exact ⟨_, step_rst hin, Memory.ofCells_self hwf hmap⟩

/-! ### The memories -/

/-- No register lies in a memory (20_memory.md R62). -/
theorem Reg.ofAddr_memory {a : Nat} (h : inRam a ∨ inRom a) : Reg.ofAddr a = none := by
  cases hr : Reg.ofAddr a with
  | none => rfl
  | some r =>
    have hlow := lt_of_mem_registerOffsets (Reg.mem_of_ofAddr hr)
    unfold inRam inRom at h
    omega

/-- A legal write to a memory stores its bytes and changes nothing else (R66, R83). -/
theorem step_write_memory {s : State} {a : Addr} {n : Size} {v : Word} {rest : List HostEvent}
    (hram : inRam a.toNat) (halign : a.toNat % n.bytes = 0)
    (hin : s.inbox = .write a n v :: rest) :
    step s = .next { s with inbox := rest, answer := .ok,
                            mem := s.mem.writeBytes a.toNat n.bytes v.toNat } := by
  rw [step_serve hin, State.serve, State.hostWrite, Reg.ofAddr_memory (.inl hram)]
  exact if_pos (legalWrite_iff.mpr ⟨hram, halign⟩)

/-- A legal read of a memory answers its bytes and changes nothing else. -/
theorem step_read_memory {s : State} {a : Addr} {n : Size} {rest : List HostEvent}
    (hmem : inRam a.toNat ∨ inRom a.toNat) (halign : a.toNat % n.bytes = 0)
    (hin : s.inbox = .read a n :: rest) :
    step s = .next { s with inbox := rest,
                            answer := .data (BitVec.ofNat 32 (s.memRead a.toNat n.bytes)) } := by
  have hread : State.hostRead { s with inbox := rest } a.toNat n =
      .data (BitVec.ofNat 32 (s.memRead a.toNat n.bytes)) := by
    have hframe (k : Nat) : ∀ x, State.memRead { s with inbox := rest } x k = s.memRead x k := by
      induction k with
      | zero => intro x; rfl
      | succ k ih => intro x; rw [State.memRead, State.memRead, ih]; rfl
    rw [State.hostRead, Reg.ofAddr_memory hmem]
    simp only [if_pos (legalRead_iff.mpr ⟨hmem, halign⟩), hframe]
  rw [step_read hin, hread]

/-- A byte of the writable memories is read from them. -/
theorem byteAt_ram {s : State} {a : Nat} (h : inRam a) : s.byteAt a = (s.mem.read a).toNat := by
  have hrom : ¬ inRom a := by unfold inRam at h; unfold inRom; omega
  rw [State.byteAt, if_neg (fun h => hrom (inNoise_iff_inRom.mp h)), Memory.read8]

/-- The bytes of an aligned read lie in the memory where the first lies. -/
theorem inRam_add {a j k : Nat} (h : inRam a) (halign : a % k = 0) (hj : j < k)
    (hk : k = 1 ∨ k = 2 ∨ k = 4) : inRam (a + j) := by
  unfold inRam at h ⊢
  rcases hk with rfl | rfl | rfl <;> omega

/-- The two bytes of a noise cell, little-endian (R66, R74). -/
theorem memRead_noise {s : State} {k a : Nat} {c : Half} (hk : k < 8192)
    (hc : s.noise[k]? = some c) (ha : a = 0x20000 + 2 * k) : s.memRead a 2 = c.toNat := by
  have hcell : noiseAt s.noise k = c.toNat := by
    have hlen : Config.noiseLen = 8192 := rfl
    rw [noiseAt, hlen, Nat.mod_eq_of_lt hk, List.getD_eq_getElem?_getD, hc, Option.getD_some]
  have hlow : s.byteAt a = c.toNat % 256 := by
    have hidx : (a - Config.noiseBase) / 2 = k := by rw [ha, Config.noiseBase]; omega
    have hbyte : (a - Config.noiseBase) % 2 = 0 := by rw [ha, Config.noiseBase]; omega
    rw [State.byteAt, if_pos ((inNoise_iff a).mpr (by omega)), hidx, hbyte, hcell, Nat.pow_zero,
      Nat.div_one]
  have hhigh : s.byteAt (a + 1) = c.toNat / 256 := by
    have hidx : (a + 1 - Config.noiseBase) / 2 = k := by rw [ha, Config.noiseBase]; omega
    have hbyte : (a + 1 - Config.noiseBase) % 2 = 1 := by rw [ha, Config.noiseBase]; omega
    have hlt := c.isLt
    rw [State.byteAt, if_pos ((inNoise_iff _).mpr (by omega)), hidx, hbyte, hcell, Nat.pow_one]
    omega
  rw [State.memRead, State.memRead, State.memRead, hlow, hhigh]
  omega

/-- Settles O17: a legal access reaches the memory alone, whose bytes `writeBytes` stores and
`memRead` sums in little-endian order. -/
theorem littleEndianMemory : Obligations.LittleEndianMemory := by
  unfold Obligations.LittleEndianMemory
  intro s a n v rest byte
  refine ⟨fun hram halign hin => ?_, fun hram hin => ?_, fun hram halign hin => ?_,
    fun hram halign hin => ?_, fun k c hk hc ha hin => ?_⟩
  · refine ⟨_, step_write_memory hram halign hin, fun j hj => ?_,
      fun x => Memory.read_writeBytes_other _ _ _ _ x⟩
    have hbyte := Memory.read8_writeBytes n.bytes s.mem a.toNat v.toNat (a.toNat + j)
    rw [if_pos (by omega), Nat.add_sub_cancel_left] at hbyte
    exact hbyte
  · rw [step_read_memory (.inl hram) (Nat.mod_one _) hin]
    simp only [Size.bytes, State.memRead, byteAt_ram hram]
    rfl
  · rw [step_read_memory (n := .b2) (.inl hram) halign hin]
    simp only [Size.bytes, State.memRead, byteAt_ram hram,
      byteAt_ram (inRam_add hram halign (j := 1) (by decide) (by decide)),
      Nat.mul_comm 256]
    rfl
  · have hsum : s.memRead a.toNat 4 =
        byte 0 + byte 1 * 256 + byte 2 * 256 ^ 2 + byte 3 * 256 ^ 3 := by
      simp only [State.memRead, byteAt_ram hram, Nat.add_assoc, Nat.reduceAdd,
        byteAt_ram (inRam_add hram halign (j := 1) (by decide) (by decide)),
        byteAt_ram (inRam_add hram halign (j := 2) (by decide) (by decide)),
        byteAt_ram (inRam_add hram halign (j := 3) (by decide) (by decide)), byte, Nat.add_zero]
      omega
    rw [step_read_memory (n := .b4) (.inl hram) halign hin, Size.bytes, hsum]
  · have hrom : inRom a.toNat := by unfold inRom; omega
    have halign : a.toNat % Size.b2.bytes = 0 := by rw [Size.bytes]; omega
    rw [step_read_memory (.inr hrom) halign hin, Size.bytes, memRead_noise hk hc ha]

/-! ### The pseudo-instruction `PIX16` -/

/-- A 16-bit cell of a 4-byte store: the low half of the word at the address, the high half after
it. -/
theorem Memory.read16_writeBytes_four (m : Memory) (a : Nat) (hi lo : Half) :
    (m.writeBytes a 4 (hi ++ lo : Word).toNat).read16 a = lo.toNat ∧
      (m.writeBytes a 4 (hi ++ lo : Word).toNat).read16 (a + 2) = hi.toNat := by
  have hlo := lo.isLt
  have hhi := hi.isLt
  have hval : (hi ++ lo : Word).toNat = hi.toNat * 65536 + lo.toNat := by
    rw [BitVec.toNat_append, ← Nat.shiftLeft_add_eq_or_of_lt hlo, Nat.shiftLeft_eq]
  have hbyte (j : Nat) (hj : j < 4) :
      (m.writeBytes a 4 (hi ++ lo : Word).toNat).read8 (a + j) =
        (hi ++ lo : Word).toNat / 256 ^ j % 256 := by
    rw [Memory.read8_writeBytes, if_pos (by omega), Nat.add_sub_cancel_left]
  have h0 := hbyte 0 (by decide)
  have h1 := hbyte 1 (by decide)
  have h2 := hbyte 2 (by decide)
  have h3 := hbyte 3 (by decide)
  rw [hval] at h0 h1 h2 h3 ⊢
  rw [Nat.add_zero] at h0
  constructor
  · rw [Memory.read16, h0, h1]
    omega
  · rw [Memory.read16, h2, h3]
    omega

/-- A pixel is its four cells, two bytes apart (20_memory.md R70). -/
theorem Memory.pixel16_of_cells {m : Memory} {s : Slot} {i r g b a : Nat}
    (hr : m.read16 (t16Addr s i 0) = r) (hg : m.read16 (t16Addr s i 0 + 2) = g)
    (hb : m.read16 (t16Addr s i 2) = b) (ha : m.read16 (t16Addr s i 2 + 2) = a) :
    m.pixel16 s i = ⟨r, g, b, a⟩ := by
  subst hr hg hb ha
  rfl

/-- Settles O18: the two stores of four bytes are the four cells of the pixel. -/
theorem pix16StoresPixel : Obligations.Pix16StoresPixel := by
  unfold Obligations.Pix16StoresPixel
  intro s ts i r g b a rest hts hi hin
  have haddr (ch : Nat) (hch : ch < 4) :
      (BitVec.ofNat 20 (t16Addr ts i ch)).toNat = t16Addr ts i ch := by
    rw [BitVec.toNat_ofNat, t16Addr_eq]
    omega
  have hram (ch : Nat) (hch : ch < 4) : inRam (t16Addr ts i ch) := by
    unfold inRam
    rw [t16Addr_eq]
    omega
  have hstep := step_write_memory (rest := wmEvent (t16Addr ts i 2) .b4 (a ++ b) :: rest)
    (by rw [haddr 0 (by decide)]; exact hram 0 (by decide))
    (by rw [haddr 0 (by decide), t16Addr_eq, Size.bytes]; omega) hin
  have hstep' := step_write_memory (s := { s with
      inbox := wmEvent (t16Addr ts i 2) .b4 (a ++ b) :: rest, answer := .ok,
      mem := s.mem.writeBytes (BitVec.ofNat 20 (t16Addr ts i 0)).toNat Size.b4.bytes
        (g ++ r : Word).toNat })
    (by rw [haddr 2 (by decide)]; exact hram 2 (by decide))
    (by rw [haddr 2 (by decide), t16Addr_eq, Size.bytes]; omega) rfl
  refine ⟨_, _, hstep, hstep', ?_, fun x hx => ?_⟩
  · rw [haddr 0 (by decide), haddr 2 (by decide)]
    obtain ⟨hr, hg⟩ := Memory.read16_writeBytes_four s.mem (t16Addr ts i 0) g r
    obtain ⟨hb, ha⟩ := Memory.read16_writeBytes_four
      (s.mem.writeBytes (t16Addr ts i 0) 4 (g ++ r : Word).toNat) (t16Addr ts i 2) a b
    have hnext : t16Addr ts i 2 = t16Addr ts i 0 + 4 := by rw [t16Addr_eq, t16Addr_eq]
    have hkeep (x : Nat) (hx : x + 2 ≤ t16Addr ts i 2) :
        ((s.mem.writeBytes (t16Addr ts i 0) 4 (g ++ r : Word).toNat).writeBytes (t16Addr ts i 2) 4
          (a ++ b : Word).toNat).read16 x =
        (s.mem.writeBytes (t16Addr ts i 0) 4 (g ++ r : Word).toNat).read16 x :=
      Memory.read16_congr (Memory.read_writeBytes_other _ _ _ _ _ (by omega))
        (Memory.read_writeBytes_other _ _ _ _ _ (by omega))
    rw [← hkeep (t16Addr ts i 0) (by omega)] at hr
    rw [← hkeep (t16Addr ts i 0 + 2) (by omega)] at hg
    exact Memory.pixel16_of_cells hr hg hb ha
  · unfold inPixel16 at hx
    rw [haddr 0 (by decide), haddr 2 (by decide)]
    rw [Memory.read_writeBytes_other _ _ _ _ _ (by rw [t16Addr_eq, Size.bytes]; omega),
      Memory.read_writeBytes_other _ _ _ _ _ (by rw [t16Addr_eq, Size.bytes]; omega)]

end Sys2Proof.Machine
end

section
/-! PROOFS. The interrupt line (10_state.md R25, 60_exceptions.md R320): every end of a command sets one
of the two flags it is computed from. -/

namespace Sys2Proof.Machine

open Sys2Proof

/-- The line is high exactly when an enabled flag is set. -/
theorem State.irq_iff (s : State) : s.irq = true ↔
    (s.status.getLsbD 0 = true ∧ s.irqEn.getLsbD 0 = true) ∨
      (s.status.getLsbD 1 = true ∧ s.irqEn.getLsbD 1 = true) := by
  rw [State.irq, Bool.or_eq_true, Bool.and_eq_true, Bool.and_eq_true, State.done, State.doneIe,
    State.err, State.errIe]

/-- The two ends of a command, seen from its flags: `DONE` set and `ERR` as it was, or `ERR` set and
`DONE` as it was. -/
def RaisesFlag (s t : State) : Prop :=
  t.irqEn = s.irqEn ∧
    ((t.status.getLsbD 0 = true ∧ t.status.getLsbD 1 = s.status.getLsbD 1) ∨
      (t.status.getLsbD 1 = true ∧ t.status.getLsbD 0 = s.status.getLsbD 0))

theorem raisesFlag_setDone {s u : State} (hirq : u.irqEn = s.irqEn) (hst : u.status = s.status) :
    RaisesFlag s u.setDone := by
  refine ⟨hirq, .inl ⟨?_, ?_⟩⟩
  · rw [State.setDone_status, BitVec.getLsbD_or]
    exact Bool.or_true _
  · rw [State.setDone_status, BitVec.getLsbD_or, hst]
    exact Bool.or_false _

theorem raisesFlag_raise {s u : State} (hirq : u.irqEn = s.irqEn) (hst : u.status = s.status)
    (f : FaultRec) : RaisesFlag s (u.raise f) := by
  refine ⟨hirq, .inr ⟨?_, ?_⟩⟩
  · rw [State.raise_status, BitVec.getLsbD_or]
    exact Bool.or_true _
  · rw [State.raise_status, BitVec.getLsbD_or, hst]
    exact Bool.or_false _

theorem exec_raisesFlag (i : Instr) (s : State) : ∃ t, exec i s = .next t ∧ RaisesFlag s t := by
  rcases exec_ends i s with ⟨t, hexec, m, o, rfl, _, _⟩ | ⟨_, x, _, hexec⟩
  · refine ⟨_, hexec, ?_⟩
    cases o with
    | none => exact raisesFlag_setDone rfl rfl
    | some f => exact raisesFlag_raise rfl rfl f
  · exact ⟨_, hexec, raisesFlag_setDone rfl rfl⟩

/-- The flag raises the line where its enable is set. -/
theorem RaisesFlag.line {s t : State} (h : RaisesFlag s t) :
    t.irqEn = s.irqEn ∧
    ((t.status.getLsbD 0 = true ∧ t.status.getLsbD 1 = s.status.getLsbD 1 ∧
        (s.irqEn.getLsbD 0 = true → t.irq = true)) ∨
      (t.status.getLsbD 1 = true ∧ t.status.getLsbD 0 = s.status.getLsbD 0 ∧
        (s.irqEn.getLsbD 1 = true → t.irq = true))) := by
  obtain ⟨hirq, ⟨hset, hkeep⟩ | ⟨hset, hkeep⟩⟩ := h
  · exact ⟨hirq, .inl ⟨hset, hkeep, fun hie => t.irq_iff.mpr (.inl ⟨hset, by rw [hirq, hie]⟩)⟩⟩
  · exact ⟨hirq, .inr ⟨hset, hkeep, fun hie => t.irq_iff.mpr (.inr ⟨hset, by rw [hirq, hie]⟩)⟩⟩

/-- A `CMD` write while `ERR` is 0 raises a flag, `ERR` where its word is no well-formed instruction. -/
theorem step_cmd_raisesFlag {s : State} {w : Word} {rest : List HostEvent}
    (hin : s.inbox = .write 0x00010#20 .b4 w :: rest) (herr : s.status.getLsbD 1 = false) :
    ∃ t, step s = .next t ∧ RaisesFlag s t ∧
      ((∀ i, decode w = .ok i → i.wellFormed = false) → t.status.getLsbD 1 = true) := by
  have err_raise (u : State) (f : FaultRec) : (u.raise f).status.getLsbD 1 = true := u.err_raise f
  cases hd : decode w with
  | error e =>
    exact ⟨_, step_cmd_illegal hin herr hd, raisesFlag_raise rfl rfl _, fun _ => err_raise _ _⟩
  | ok i =>
    rw [step_cmd_legal hin herr hd]
    obtain ⟨t, hexec, hflag⟩ := exec_raisesFlag i { s with inbox := rest, answer := .ok, cmd := w }
    refine ⟨t, hexec, hflag, fun hill => ?_⟩
    obtain ⟨k, _, hbad⟩ := exec_not_wellFormed (hill i rfl) { s with inbox := rest, answer := .ok,
                                                                     cmd := w }
    cases hexec.symm.trans hbad
    exact err_raise _ _

/-- Settles O19, by the flag each end of a command raises. -/
theorem irqFollowsFlags : Obligations.IrqFollowsFlags := by
  unfold Obligations.IrqFollowsFlags
  refine ⟨State.irq_iff, rfl, fun s => ⟨_, exec_nop s, fun hie => ?_⟩, fun i s => ?_,
    fun s w rest hin herr => ?_, fun s rest hin => ⟨_, step_write_status hin, ?_⟩⟩
  · exact (State.irq_iff _).mpr (.inl ⟨by simp, hie⟩)
  · obtain ⟨t, hexec, hflag⟩ := exec_raisesFlag i s
    exact ⟨t, hexec, hflag.line⟩
  · obtain ⟨t, hstep, hflag, hill⟩ := step_cmd_raisesFlag hin herr
    obtain ⟨hirq, hline⟩ := hflag.line
    rw [herr] at hline
    exact ⟨t, hstep, hirq, hline, fun h =>
      ⟨hill h, fun hie => t.irq_iff.mpr (.inr ⟨hill h, by rw [hirq, hie]⟩)⟩⟩
  · have low (u : State) (k : Nat) (hk : k < 2) :
        (u.writeStatus 3#32).status.getLsbD k = false := by
      have hbit : ∀ k < 2, (3#32).getLsbD k = true := by decide
      rw [u.getLsbD_writeStatus 3#32 hk, hbit k hk, Bool.not_true, Bool.and_false]
    rw [← Bool.not_eq_true, State.irq_iff, low _ 0 (by decide), low _ 1 (by decide)]
    simp

end Sys2Proof.Machine
end

section
/-! PROOFS. The operand check of one pixel, comparison by comparison (60_exceptions.md R310, R311), and
the fields of `ERR_INFO` (10_state.md R29). -/

namespace Sys2Proof.Machine

open Sys2Proof

/-- The range comparisons of three channels, in order. -/
theorem firstAbove_three (limit x y z : Nat) :
    firstAbove limit [x, y, z] =
      if x > limit then some 0 else if y > limit then some 1 else if z > limit then some 2
      else none := by
  simp only [firstAbove]
  split_ifs <;> rfl

/-- The range comparisons of four channels, in order. -/
theorem firstAbove_four (limit x y z w : Nat) :
    firstAbove limit [x, y, z, w] =
      if x > limit then some 0 else if y > limit then some 1 else if z > limit then some 2
      else if w > limit then some 3 else none := by
  simp only [firstAbove]
  split_ifs <;> rfl

/-- `ERR_INFO` as a number: each field at its place. -/
theorem FaultRec.info_toNat {f : FaultRec} (hidx : f.idx < 2 ^ 16) (hch : f.ch < 4)
    (hopnd : f.opnd < 4) : f.info.toNat = f.idx + f.ch * 2 ^ 16 + f.opnd * 2 ^ 20 := by
  have field {n : Nat} {x : Nat} (hx : x < 2 ^ n) : (BitVec.ofNat n x).toNat = x :=
    BitVec.toNat_ofNat x n ▸ Nat.mod_eq_of_lt hx
  have join {k n : Nat} (x : BitVec k) (y : BitVec n) :
      (x ++ y).toNat = x.toNat * 2 ^ n + y.toNat := by
    rw [BitVec.toNat_append, ← Nat.shiftLeft_add_eq_or_of_lt y.isLt, Nat.shiftLeft_eq]
  rw [FaultRec.info, join, join, join, field hidx, field (n := 2) hch, field (n := 2) hopnd,
    BitVec.toNat_zero]
  omega

/-- Settles O23: each level's comparisons in order, and the three fields side by side. -/
theorem pixelCheckAndFaultInfo : Obligations.PixelCheckAndFaultInfo := by
  unfold Obligations.PixelCheckAndFaultInfo
  have one : Config.one = 32768 := rfl
  refine ⟨fun p o i => ⟨?_, ?_, ?_⟩, fun f => FaultRec.info_toNat⟩
  · rw [Pixel.check, Pixel.rangeFault, Pixel.premulFault, firstAbove_four, firstAbove_three, one]
    split_ifs <;> rfl
  · rw [Pixel.check, Pixel.rangeFault, Pixel.premulFault, firstAbove_four, one]
    split_ifs <;> rfl
  · rw [Pixel.check, Pixel.rangeFault, Pixel.premulFault, firstAbove_three, one]
    split_ifs <;> rfl

end Sys2Proof.Machine
end

section
/-! PROOFS. What a command depends on (10_state.md R49, 30_encoding.md R93): run from two memories that
agree on the bytes it may touch, it ends alike on both, and the two results agree on those bytes. -/

namespace Sys2Proof.Machine

open Sys2Proof

/-! ### Memories that agree -/

/-- The two memories hold the same bytes at the offsets of `P`. -/
def Agree (P : Nat → Prop) (m m' : Memory) : Prop := ∀ x, P x → m.read x = m'.read x

section agree

variable {P : Nat → Prop} {m m' : Memory}

/-- Agreement on a working slot is agreement on its pixels. -/
theorem Agree.pixel16 (h : Agree P m m') {s : Slot} (hs : ∀ x, inSlot (.t16, s) x → P x) {i : Nat}
    (hi : i < 4096) : m.pixel16 s i = m'.pixel16 s i := by
  refine Memory.pixel16_eq fun x hx => h x (hs x ?_)
  by_contra hout
  exact foot16_inSlot hout i hi hx

/-- Agreement on a storage slot is agreement on its pixels. -/
theorem Agree.pixel8 (h : Agree P m m') {s : Slot} (hs : ∀ x, inSlot (.t8, s) x → P x) {i : Nat}
    (hi : i < 4096) : m.pixel8 s i = m'.pixel8 s i := by
  refine Memory.pixel8_eq fun x hx => h x (hs x ?_)
  by_contra hout
  exact foot8_inSlot hout i hi hx

/-- Agreement on `MASK` is agreement on its words. -/
theorem Agree.mask (h : Agree P m m') (hs : ∀ x, inMask x → P x) {j : Nat} (hj : j < 8192) :
    m.mask j = m'.mask j :=
  Memory.mask_congr j (fun x hx => h x (hs x hx)) hj

end agree

/-! ### Data phases that end alike -/

/-- Two results of a data phase: the same but for memories that agree, the same fault or none. -/
def EndAlike (P : Nat → Prop) (r r' : State × Option FaultRec) : Prop :=
  ∃ (u : State) (k k' : Memory) (o : Option FaultRec),
    r = (u.withMem k, o) ∧ r' = (u.withMem k', o) ∧ Agree P k k'

theorem EndAlike.unchanged {P : Nat → Prop} {s : State} {m : Memory} (h : Agree P s.mem m)
    (o : Option FaultRec) : EndAlike P (s, o) (s.withMem m, o) :=
  ⟨s, s.mem, m, o, rfl, rfl, h⟩

theorem EndAlike.overMem {P : Nat → Prop} {s : State} {m : Memory}
    {g g' : Memory → Memory × Option FaultRec}
    (h : Agree P (g s.mem).1 (g' m).1 ∧ (g s.mem).2 = (g' m).2) :
    EndAlike P (s.overMem g) ((s.withMem m).overMem g') :=
  ⟨s, _, _, (g s.mem).2, rfl, by rw [h.2]; rfl, h.1⟩

theorem scanTile_eq {σ : Type} (body : Nat → σ → Except FaultRec σ) (x : σ) :
    scanTile body x = scanFrom body 0 4096 x := by
  have hN : Config.npix = 4096 := rfl
  rw [scanTile, hN]

/-- A scan of checked positions ends alike on memories that agree, when each position sees and stores
the same on both. -/
theorem EndAlike.scanFrom {P : Nat → Prop} {α : Type} {n : Nat} (view : Nat → Memory → α)
    (fault : Nat → α → Option FaultRec) (store : Nat → α → Memory → Memory)
    {g : Memory → Memory × Option FaultRec}
    (hg : ∀ k, g k =
      Machine.scanFrom (fun i k => checked (fault i (view i k)) (store i (view i k) k)) 0 n k)
    {s : State} {m : Memory} (h : Agree P s.mem m)
    (hview : ∀ i k k', i < n → Agree P k k' → view i k = view i k')
    (hcongr : ∀ i v k k' x, k.read x = k'.read x → (store i v k).read x = (store i v k').read x) :
    EndAlike P (s.overMem g) ((s.withMem m).overMem g) := by
  refine .overMem ?_
  rw [hg, hg]
  refine scanFrom_related (Agree P) n 0 s.mem m (fun j k k' _ hj hkk => ?_) h
  rw [hview j k k' (by omega) hkk]
  cases fault j (view j k') with
  | some f => exact .inl ⟨f, rfl, rfl⟩
  | none => exact .inr ⟨_, _, rfl, rfl, fun x hx => hcongr j _ k k' x (hkk x hx)⟩

/-- Two traversals of masks that agree, every visit keeping their states related, end alike. -/
theorem maskWalk_related {σ τ : Type} {mask mask' : Nat → Nat}
    {process : Nat → Nat → σ → Except FaultRec σ} {process' : Nat → Nat → τ → Except FaultRec τ}
    (R : σ → τ → Prop) {n : Nat} (hmask : ∀ j, j < n → mask j = mask' j)
    (hvisit : ∀ p v x y, p < 4096 → R x y →
      (∃ f, process p v x = .error f ∧ process' p v y = .error f) ∨
      (∃ x' y', process p v x = .ok x' ∧ process' p v y = .ok y' ∧ R x' y'))
    (left m p : Nat) (x : σ) (y : τ) (hn : m + left = n) (hxy : R x y) :
    R (maskWalk mask process left m p x).1 (maskWalk mask' process' left m p y).1 ∧
      (maskWalk mask process left m p x).2 = (maskWalk mask' process' left m p y).2 := by
  fun_induction maskWalk mask process left m p x generalizing y with
  | case1 m p x => exact ⟨hxy, rfl⟩
  | case2 m p x h0 =>
    rw [hmask m (by omega)] at h0
    rw [maskWalk, if_pos h0]
    exact ⟨hxy, rfl⟩
  | case3 m p x h0 l h1 =>
    rw [hmask m (by omega)] at h0
    rw [hmask (m + 1) (by omega)] at h1
    rw [maskWalk, if_pos h0]
    simp only [if_pos h1]
    exact ⟨hxy, trivial⟩
  | case4 m p x h0 l h1 h2 =>
    rw [hmask m (by omega)] at h0
    rw [hmask (m + 1) (by omega)] at h1 h2
    rw [maskWalk, if_pos h0]
    simp only [if_neg h1, if_pos h2]
    exact ⟨hxy, trivial⟩
  | case5 m p x h0 l h1 h2 ih =>
    rw [hmask m (by omega)] at h0
    rw [hmask (m + 1) (by omega)] at h1 h2 ih ⊢
    rw [maskWalk.eq_def mask']
    simp only [if_pos h0, if_neg h1, if_neg h2]
    exact ih y (by omega) hxy
  | case6 l m p x h0 h1 =>
    rw [hmask m (by omega)] at h0 h1
    rw [maskWalk.eq_def mask']
    simp only [if_neg h0, if_pos h1]
    exact ⟨hxy, trivial⟩
  | case7 l m p x h0 h1 h2 =>
    rw [hmask m (by omega)] at h0 h1
    rw [maskWalk.eq_def mask']
    simp only [if_neg h0, if_neg h1, if_pos h2]
    exact ⟨hxy, trivial⟩
  | case8 l m p x h0 h1 h2 f hf =>
    rw [hmask m (by omega)] at h0 h1 hf
    rw [maskWalk.eq_def mask']
    rcases hvisit p (mask' m) x y (Nat.lt_of_not_le h2) hxy with ⟨f', hx, hy⟩ | ⟨x', _, hx, _, _⟩
    · cases hf.symm.trans hx
      simp only [if_neg h0, if_neg h1, if_neg h2, hy]
      exact ⟨hxy, trivial⟩
    · cases hf.symm.trans hx
  | case9 l m p x h0 h1 h2 z hz ih =>
    rw [hmask m (by omega)] at h0 h1 hz
    rw [maskWalk.eq_def mask']
    rcases hvisit p (mask' m) x y (Nat.lt_of_not_le h2) hxy with ⟨f', hx, _⟩ | ⟨x', y', hx, hy, hr⟩
    · cases hz.symm.trans hx
    · cases hz.symm.trans hx
      simp only [if_neg h0, if_neg h1, if_neg h2, hy]
      exact ih y' (by omega) hr

/-- The traversal of a paint command ends alike on memories that agree on `MASK` and on its slot. -/
theorem EndAlike.paint {P : Nat → Prop} {store : Nat → DabIn → Memory → Memory} {sa : Slot}
    {s : State} {m : Memory} (h : Agree P s.mem m) (hslot : ∀ x, inSlot (.t16, sa) x → P x)
    (hmask : ∀ x, inMask x → P x)
    (hcongr : ∀ p v k k' x, k.read x = k'.read x → (store p v k).read x = (store p v k').read x)
    (op : Nat) (col : Rgb) :
    EndAlike P
      (s.overMem fun k => walkMask k (fun p => paintPixel (store p) op col sa p) k)
      ((s.withMem m).overMem fun k => walkMask k (fun p => paintPixel (store p) op col sa p) k) := by
  refine .overMem ?_
  rw [walkMask_eq, walkMask_eq]
  refine maskWalk_related (Agree P) (n := 8192) (fun j hj => h.mask hmask hj)
    (fun p v k k' hp hkk => ?_) 8192 0 0 s.mem m rfl h
  unfold paintPixel
  rw [hkk.pixel16 hslot hp]
  cases (k'.pixel16 sa p).check .premul .a p with
  | some f => exact .inl ⟨f, rfl, rfl⟩
  | none => exact .inr ⟨_, _, rfl, rfl, fun x hx => hcongr p _ k k' x (hkk x hx)⟩

/-- The traversal of `DABACC` computes the same sums on memories that agree on `MASK` and its slot. -/
theorem maskWalk_sumPixel_agree {P : Nat → Prop} {sa : Slot} {m m' : Memory} (h : Agree P m m')
    (hslot : ∀ x, inSlot (.t16, sa) x → P x) (hmask : ∀ x, inMask x → P x) (x : Sums) {n : Nat}
    (hn : n ≤ 8192) :
    maskWalk m.mask (sumPixel m sa) n 0 0 x = maskWalk m'.mask (sumPixel m' sa) n 0 0 x := by
  have hvisit (p v : Nat) (x : Sums) (hp : p < 4096) : sumPixel m sa p v x = sumPixel m' sa p v x := by
    rw [sumPixel, sumPixel, h.pixel16 hslot hp]
  obtain ⟨hsums, hfault⟩ := maskWalk_related (mask := m.mask) (mask' := m'.mask)
    (process := sumPixel m sa) (process' := sumPixel m' sa) Eq (n := n)
    (fun j hj => h.mask hmask (Nat.lt_of_lt_of_le hj hn))
    (fun p v x y hp hxy => by
      rw [hvisit p v x hp, hxy]
      cases sumPixel m' sa p v y with
      | error f => exact .inl ⟨f, rfl, rfl⟩
      | ok z => exact .inr ⟨z, z, rfl, rfl, rfl⟩)
    n 0 0 x x (Nat.zero_add n) rfl
  exact Prod.ext hsums hfault

theorem EndAlike.accumulate {P : Nat → Prop} {sa : Slot} {s : State} {m : Memory}
    (h : Agree P s.mem m) (hslot : ∀ x, inSlot (.t16, sa) x → P x) (hmask : ∀ x, inMask x → P x) :
    EndAlike P (accumulate sa s) (accumulate sa (s.withMem m)) := by
  unfold Machine.accumulate
  rw [State.withMem_mem, walkMask_eq, walkMask_eq,
    maskWalk_sumPixel_agree h hslot hmask _ (Nat.le_refl 8192)]
  rcases maskWalk m.mask (sumPixel m sa) 8192 0 0 ⟨0, 0, 0, 0, 0⟩ with ⟨x, _ | f⟩
  · exact ⟨s.commit x, s.mem, m, none, rfl, rfl, h⟩
  · exact .unchanged h (some f)

/-! ### The commands -/

/-- Two ends of a command: the same but for memories that agree. -/
def CommandsAlike (P : Nat → Prop) (t t' : State) : Prop :=
  { t' with mem := t.mem } = t ∧ Agree P t.mem t'.mem

theorem CommandsAlike.finish {P : Nat → Prop} (u : State) {k k' : Memory} (h : Agree P k k')
    (o : Option FaultRec) : CommandsAlike P ((u.withMem k).finish o) ((u.withMem k').finish o) := by
  cases o <;> exact ⟨rfl, h⟩

theorem CommandsAlike.command {P : Nat → Prop} {s : State} {m : Memory} (h : Agree P s.mem m)
    {slots : List (MemKind × Slot)} {body : State → State × Option FaultRec}
    (hbody : EndAlike P (body s) (body (s.withMem m))) :
    CommandsAlike P (s.command slots body) ((s.withMem m).command slots body) := by
  cases hbad : badSlotFrom 0 slots with
  | some f =>
    rw [State.command_bad body hbad, State.command_bad body hbad]
    exact .finish s h (some f)
  | none =>
    have hall := (badSlotFrom_eq_none 0 slots).mp hbad
    obtain ⟨u, k, k', o, hr, hr', hkk⟩ := hbody
    rw [State.command_ok body hall, State.command_ok body hall, hr, hr']
    exact .finish u hkk o

/-- A command whose data phase is the scan of a tile, with the view of a position, its check and its
store. -/
theorem scan_alike {P : Nat → Prop} {α : Type} (slots : List (MemKind × Slot))
    (view : Nat → Memory → α) (fault : Nat → α → Option FaultRec)
    (store : Nat → α → Memory → Memory) {s : State} {m : Memory} (h : Agree P s.mem m)
    (hview : ∀ i k k', i < 4096 → Agree P k k' → view i k = view i k')
    (hcongr : ∀ i v k k' x, k.read x = k'.read x → (store i v k).read x = (store i v k').read x)
    {body : State → Nat → Memory → Except FaultRec Memory}
    (hs : body s = fun i k => checked (fault i (view i k)) (store i (view i k) k))
    (hm : body (s.withMem m) = body s) :
    CommandsAlike P (s.command slots fun s => s.overMem (scanTile (body s)))
      ((s.withMem m).command slots fun s => s.overMem (scanTile (body s))) := by
  refine .command h ?_
  rw [hm, hs]
  exact .scanFrom view fault store (scanTile_eq _) h hview hcongr

theorem composite_alike {P : Nat → Prop} (colour : CompIn → Rgb) (ha : Bool) {sa sb : Slot}
    {s : State} {m : Memory} (h : Agree P s.mem m) (hsa : ∀ x, inSlot (.t16, sa) x → P x)
    (hsb : ∀ x, inSlot (.t16, sb) x → P x) :
    CommandsAlike P (composite colour ha sa sb s) (composite colour ha sa sb (s.withMem m)) := by
  refine .command h ?_
  by_cases hop : s.opacity.toNat = 0
  case pos =>
    rw [State.withMem_opacity, if_pos hop, if_pos hop]
    exact .unchanged h none
  case neg =>
    rw [State.withMem_opacity, if_neg hop, if_neg hop]
    refine .scanFrom (fun i k => (k.pixel16 sb i, k.pixel16 sa i))
      (fun i v => compCheck ha i v.1 v.2)
      (fun i v => compStore ha sa i (colour ⟨v.1, v.2, s.opacity.toNat, ha⟩)
        (CompIn.outAlpha ⟨v.1, v.2, s.opacity.toNat, ha⟩)) (scanTile_eq _) h
      (fun i k k' hi hkk => by rw [hkk.pixel16 hsa hi, hkk.pixel16 hsb hi]) fun i v k k' x hx => ?_
    cases ha with
    | true => exact Memory.read_setPixel16_congr _ _ _ hx
    | false => exact Memory.read_setColour16_congr _ _ _ hx

theorem paint_alike {P : Nat → Prop} {store : Nat → DabIn → Memory → Memory} {sa : Slot}
    {s : State} {m : Memory} (h : Agree P s.mem m) (hslot : ∀ x, inSlot (.t16, sa) x → P x)
    (hmask : ∀ x, inMask x → P x)
    (hcongr : ∀ p v k k' x, k.read x = k'.read x → (store p v k).read x = (store p v k').read x) :
    CommandsAlike P (paint store sa s) (paint store sa (s.withMem m)) :=
  .command h (.paint h hslot hmask hcongr _ _)

theorem downs_alike {P : Nat → Prop} {sa sb : Slot} {s : State} {m : Memory} (h : Agree P s.mem m)
    (hsb : ∀ x, inSlot (.t16, sb) x → P x) :
    EndAlike P
      (match downsPre sa sb s with
        | some f => (s, some f)
        | none => s.overMem (downsWindow s.dstX.toNat s.dstY.toNat sa sb))
      (match downsPre sa sb (s.withMem m) with
        | some f => (s.withMem m, some f)
        | none => (s.withMem m).overMem (downsWindow s.dstX.toNat s.dstY.toNat sa sb)) := by
  have hpre : downsPre sa sb (s.withMem m) = downsPre sa sb s := rfl
  rw [hpre]
  cases downsPre sa sb s with
  | some f => exact .unchanged h (some f)
  | none =>
    have hsource {w a b : Nat} (hw : w < 1024) (ha : a < 2) (hb : b < 2) :
        downsSource (w % 32) (w / 32) a b < 4096 := by
      have hN : Config.tileN = 64 := rfl
      rw [downsSource, hN]
      omega
    refine .scanFrom (n := 1024)
      (fun w k => fun a b => if a < 2 ∧ b < 2 then
        k.pixel16 sb (downsSource (w % 32) (w / 32) a b) else ⟨0, 0, 0, 0⟩)
      (fun w v =>
        let check := fun a b => (v a b).check .range4 .b (downsSource (w % 32) (w / 32) a b)
        ((check 0 0).or (check 1 0)).or ((check 0 1).or (check 1 1)))
      (fun w v k => k.setPixel16 sa (downsTarget s.dstX.toNat s.dstY.toNat (w % 32) (w / 32))
        (averagePixel (v 0 0) (v 1 0) (v 0 1) (v 1 1))) (fun _ => rfl) h
      (fun w k k' hw hkk => ?_) fun _ _ _ _ _ hx => Memory.read_setPixel16_congr _ _ _ hx
    funext a b
    by_cases hab : a < 2 ∧ b < 2
    · simp only [if_pos hab]
      exact hkk.pixel16 hsb (hsource hw hab.1 hab.2)
    · simp only [if_neg hab]

/-- Every command ends alike on memories that agree on what it touches. -/
theorem exec_alike (i : Instr) {s : State} {m : Memory} (h : Agree (touches i) s.mem m) :
    ∃ t t', exec i s = .next t ∧ exec i (s.withMem m) = .next t' ∧ CommandsAlike (touches i) t t' := by
  have slot {f : MemKind × Slot} (hf : f ∈ i.slotFields) (x : Nat) (hx : inSlot f x) :
      touches i x := .inl ⟨f, hf, hx⟩
  have mask (hi : readsMask i = true) (x : Nat) (hx : inMask x) : touches i x := .inr ⟨hi, hx⟩
  have first {f : MemKind × Slot} {rest : List (MemKind × Slot)} (hl : i.slotFields = f :: rest) :
      ∀ x, inSlot f x → touches i x := slot (by simp [hl])
  have second {f g : MemKind × Slot} {rest : List (MemKind × Slot)}
      (hl : i.slotFields = f :: g :: rest) : ∀ x, inSlot g x → touches i x := slot (by simp [hl])
  have third {f g k : MemKind × Slot} (hl : i.slotFields = [f, g, k]) :
      ∀ x, inSlot k x → touches i x := slot (by simp [hl])
  cases i with
  | nop => exact ⟨_, _, rfl, rfl, .command h (.unchanged h none)⟩
  | compNormal | compMultiply | compScreen | compDarken | compLighten | compOverlay | compHardlight
  | compSoftlight | compColordodge | compColorburn | compDifference | compExclusion | compHue
  | compSaturation | compColor | compLuminosity =>
    exact ⟨_, _, rfl, rfl, composite_alike _ _ h (first rfl) (second rfl)⟩
  | dabn sa | dabe sa =>
    exact ⟨_, _, rfl, rfl, paint_alike h (first rfl) (mask rfl)
      fun _ _ _ _ _ hx => Memory.read_setPixel16_congr _ _ _ hx⟩
  | dabl sa =>
    exact ⟨_, _, rfl, rfl, paint_alike h (first rfl) (mask rfl)
      fun _ _ _ _ _ hx => Memory.read_setColour16_congr _ _ _ hx⟩
  | dabacc sa => exact ⟨_, _, rfl, rfl, .command h (.accumulate h (first rfl) (mask rfl))⟩
  | cv16to8 sa sb =>
    exact ⟨_, _, rfl, rfl, scan_alike _ (fun i k => k.pixel16 sb i)
      (fun i v => v.check .premul .b i)
      (fun i v k => k.setPixel8 sa i
        (toStorage v (noiseAt s.noise (2 * i)) (noiseAt s.noise (2 * i + 1)))) h
      (fun _ _ _ hi hkk => hkk.pixel16 (second rfl) hi)
      (fun _ _ _ _ _ hx => Memory.read_setPixel8_congr _ _ _ hx) rfl rfl⟩
  | cv16to8x sa sb =>
    exact ⟨_, _, rfl, rfl, scan_alike _ (fun i k => k.pixel16 sb i)
      (fun i v => v.check .range3 .b i)
      (fun i v k => k.setPixel8 sa i (toDisplay v.rgb (noiseAt s.noise i))) h
      (fun _ _ _ hi hkk => hkk.pixel16 (second rfl) hi)
      (fun _ _ _ _ _ hx => Memory.read_setPixel8_congr _ _ _ hx) rfl rfl⟩
  | cv8to16 sa sb =>
    exact ⟨_, _, rfl, rfl, scan_alike _ (fun i k => k.pixel8 sb i) (fun _ _ => none)
      (fun i v k => k.setPixel16 sa i (toWorking v)) h
      (fun _ _ _ hi hkk => hkk.pixel8 (second rfl) hi)
      (fun _ _ _ _ _ hx => Memory.read_setPixel16_congr _ _ _ hx) rfl rfl⟩
  | tcpy16 sa sb =>
    exact ⟨_, _, rfl, rfl, scan_alike _ (fun i k => k.pixel16 sb i) (fun _ _ => none)
      (fun i v k => k.setPixel16 sa i v) h
      (fun _ _ _ hi hkk => hkk.pixel16 (second rfl) hi)
      (fun _ _ _ _ _ hx => Memory.read_setPixel16_congr _ _ _ hx) rfl rfl⟩
  | tclr16 sa =>
    exact ⟨_, _, rfl, rfl, scan_alike _ (fun _ _ => ()) (fun _ _ => none)
      (fun i _ k => k.setPixel16 sa i ⟨0, 0, 0, 0⟩) h (fun _ _ _ _ _ => rfl)
      (fun _ _ _ _ _ hx => Memory.read_setPixel16_congr _ _ _ hx) rfl rfl⟩
  | tcpy8 sa sb =>
    exact ⟨_, _, rfl, rfl, scan_alike _ (fun i k => k.pixel8 sb i) (fun _ _ => none)
      (fun i v k => k.setPixel8 sa i v) h
      (fun _ _ _ hi hkk => hkk.pixel8 (second rfl) hi)
      (fun _ _ _ _ _ hx => Memory.read_setPixel8_congr _ _ _ hx) rfl rfl⟩
  | tclr8 sa =>
    exact ⟨_, _, rfl, rfl, scan_alike _ (fun _ _ => ()) (fun _ _ => none)
      (fun i _ k => k.setPixel8 sa i ⟨0, 0, 0, 0⟩) h (fun _ _ _ _ _ => rfl)
      (fun _ _ _ _ _ hx => Memory.read_setPixel8_congr _ _ _ hx) rfl rfl⟩
  | flat sa sb =>
    exact ⟨_, _, rfl, rfl, scan_alike _ (fun i k => (k.pixel16 sb i, k.pixel16 sa i))
      (fun i v => (v.1.check .range3 .b i).or (v.2.check .premul .a i))
      (fun i v k => k.setColour16 sa i (flatColourOf v.2 v.1.rgb)) h
      (fun _ _ _ hi hkk => by rw [hkk.pixel16 (first rfl) hi, hkk.pixel16 (second rfl) hi])
      (fun _ _ _ _ _ hx => Memory.read_setColour16_congr _ _ _ hx) rfl rfl⟩
  | unflat sa sb =>
    exact ⟨_, _, rfl, rfl, scan_alike _ (fun i k => (k.pixel16 sb i, k.pixel16 sa i))
      (fun i v => (v.1.check .range3 .b i).or (v.2.check .range4 .a i))
      (fun i v k => k.setPixel16 sa i (unflatten v.2 v.1.rgb)) h
      (fun _ _ _ hi hkk => by rw [hkk.pixel16 (first rfl) hi, hkk.pixel16 (second rfl) hi])
      (fun _ _ _ _ _ hx => Memory.read_setPixel16_congr _ _ _ hx) rfl rfl⟩
  | downs sa sb => exact ⟨_, _, rfl, rfl, .command h (downs_alike h (second rfl))⟩
  | strk sa sb sc =>
    exact ⟨_, _, rfl, rfl, scan_alike _ (fun i k => (k.pixel16 sb i, k.pixel16 sc i))
      (fun i v => (v.1.check .range4 .b i).or (v.2.check .range4 .c i))
      (fun i v k => k.setSm sa i (strokeCell v.1 v.2)) h
      (fun _ _ _ hi hkk => by rw [hkk.pixel16 (second rfl) hi, hkk.pixel16 (third rfl) hi])
      (fun _ _ _ _ _ hx => Memory.read_setSm_congr _ _ _ hx) rfl rfl⟩

/-- A command leaves every byte that it does not touch. -/
theorem exec_frame {i : Instr} {s t : State} (hexec : exec i s = .next t) {x : Nat}
    (hx : ¬ touches i x) : t.mem.read x = s.mem.read x := by
  have outside (f : MemKind × Slot) (hf : destOf i = some f) : ¬ inSlot f x := by
    have hmem : f ∈ i.slotFields := by
      cases i with
      | nop | dabacc => cases hf
      | _ => cases hf; exact List.mem_cons_self
    exact fun hin => hx (.inl ⟨f, hmem, hin⟩)
  rcases exec_ends i s with ⟨u, hu, m, o, rfl, hstay, _⟩ | ⟨_, y, _, hu⟩
  · cases hu.symm.trans hexec
    cases o <;> exact hstay.frame x outside
  · cases hu.symm.trans hexec
    rfl

/-- Settles O21: the two runs end alike (`exec_alike`), and neither changes what it does not touch. -/
theorem commandDependsOnNamedOperands : Obligations.CommandDependsOnNamedOperands := by
  unfold Obligations.CommandDependsOnNamedOperands
  intro i s m h
  obtain ⟨t, t', hexec, hexec', hsame, hagree⟩ := exec_alike i (s := s) (m := m)
    fun x hx => (h x hx).symm
  exact ⟨t, t', hexec, hexec', hsame, fun x hx => (hagree x hx).symm, fun x => exec_frame hexec'⟩

end Sys2Proof.Machine
end

section
/-! PROOFS. The fixed-point primitives in numbers (40_fixed_point.md R121, R122, R126, R127). -/

namespace Sys2Proof.Machine

open Sys2Proof

/-! ### Products -/

theorem mul_eq (a b : Nat) : mul a b = a * b / 32768 := rfl

theorem div_eq (a b : Nat) : div a b = a * 32768 / b := rfl

/-- A product with a factor of at most 1.0 is at most the other factor. -/
theorem mul_le_left {a b : Nat} (hb : b ≤ 32768) : mul a b ≤ a := by
  rw [mul_eq]
  exact Nat.div_le_of_le_mul (by rw [Nat.mul_comm 32768]; exact Nat.mul_le_mul_left a hb)

theorem mul_swap (a b : Nat) : mul a b = mul b a := by rw [mul_eq, mul_eq, Nat.mul_comm]

theorem mul_le_right {a b : Nat} (ha : a ≤ 32768) : mul a b ≤ b := mul_swap a b ▸ mul_le_left ha

theorem mul_mono {a b c d : Nat} (h : a ≤ c) (h' : b ≤ d) : mul a b ≤ mul c d :=
  Nat.div_le_div_right (Nat.mul_le_mul h h')

theorem mul_right_one (a : Nat) : mul a 32768 = a := Nat.mul_div_cancel a (by decide)

theorem mul_right_zero (a : Nat) : mul a 0 = 0 := by rw [mul_eq, Nat.mul_zero, Nat.zero_div]

theorem mul_left_zero (a : Nat) : mul 0 a = 0 := by rw [mul_swap, mul_right_zero]

/-- Two products rounded down lose at most one unit against their sum rounded once. -/
theorem mul_add_mul (a b c d : Nat) :
    mul a b + mul c d ≤ (a * b + c * d) / 32768 ∧ (a * b + c * d) / 32768 ≤ mul a b + mul c d + 1 := by
  rw [mul_eq, mul_eq]
  generalize a * b = x
  generalize c * d = y
  omega

/-- The shares of a factor and its complement: together the whole, or one unit less. -/
theorem mul_add_mul_compl {a b : Nat} (hb : b ≤ 32768) :
    mul a b + mul a (32768 - b) = a ∨ mul a b + mul a (32768 - b) + 1 = a := by
  have hsum : a * b + a * (32768 - b) = a * 32768 := by
    rw [← Nat.mul_add, Nat.add_sub_cancel' hb]
  rw [mul_eq, mul_eq]
  generalize a * b = x at hsum ⊢
  generalize a * (32768 - b) = y at hsum ⊢
  omega

/-- Settles O25: each law of one product or of a sum of two, rounded down. -/
theorem mulLaws : Obligations.MulLaws := by
  unfold Obligations.MulLaws
  refine ⟨fun a a' b c d ha _ hb _ _ => ⟨mul_right_one a, mul_right_zero a, mul_swap a b,
    fun h => mul_mono h (Nat.le_refl b), Nat.le_min.mpr ⟨mul_le_left hb, mul_le_right ha⟩,
    mul_add_mul_compl hb, ?_, mul_add_mul a b c d⟩, ⟨3, 16384, 32767, by decide⟩,
    ⟨1, 16384, 16384, by decide⟩⟩
  obtain ⟨hle, hge⟩ := mul_add_mul a b a c
  rw [← Nat.mul_add, ← mul_eq] at hle hge
  omega

/-! ### Quotients -/

/-- A quotient times its divisor: the dividend, or one unit less. -/
theorem mul_div_cancel_or {c a : Nat} (ha : a ≤ 32768) (ha' : 0 < a) :
    mul (div c a) a = c ∨ mul (div c a) a + 1 = c := by
  have hlow := Nat.div_add_mod (c * 32768) a
  have hrem := Nat.mod_lt (c * 32768) ha'
  rw [mul_eq, div_eq, Nat.mul_comm _ a]
  generalize a * (c * 32768 / a) = q at hlow ⊢
  omega

theorem div_le_fix_one {c a : Nat} (hca : c ≤ a) : div c a ≤ 32768 :=
  Nat.div_le_of_le_mul (Nat.mul_le_mul_right 32768 hca)

/-- Settles O26: a quotient of numbers in range is in range, and multiplies back up to one unit. -/
theorem divLaws : Obligations.DivLaws := by
  unfold Obligations.DivLaws
  intro c a hca ha ha'
  refine ⟨div_le_fix_one hca, ?_, ?_, mul_div_cancel_or ha ha', ?_⟩
  · rw [div_eq, Nat.mul_div_cancel_left _ ha']
  · rw [div_eq, Nat.zero_mul, Nat.zero_div]
  · rw [div_eq, Nat.mul_div_cancel _ (by decide)]

end Sys2Proof.Machine
end

section
/-! PROOFS. The separable blend functions (42_blend_modes.md R172, R177, R180 to R191): their formulas in
numbers and the range of each. -/

namespace Sys2Proof.Machine

open Sys2Proof

/-! ### Each function in numbers -/

theorem blendScreen_add {cb cs : Nat} (hcb : cb ≤ 32768) :
    blendScreen cb cs + cs * cb / 32768 = cs + cb := by
  have hle : mul cs cb ≤ cs := mul_le_left hcb
  rw [blendScreen, ← mul_eq]
  omega

theorem hard_low {b s : Nat} (hs : s ≤ 16384) : hard b s = b * (2 * s) / 32768 := by
  rw [hard, if_pos (show 2 * s ≤ Config.one by rw [Config.one]; omega), mul_eq]

theorem hard_high {b s : Nat} (hs : 16384 < s) (hs' : s ≤ 32768) :
    hard b s + b * (2 * s - 32768) / 32768 = b + (2 * s - 32768) := by
  have hle : mul b (2 * s - 32768) ≤ b := mul_le_left (by omega)
  rw [hard, if_neg (show ¬ 2 * s ≤ Config.one by rw [Config.one]; omega), Config.one, ← mul_eq]
  show b + (2 * s - 32768) - mul b (2 * s - 32768) + mul b (2 * s - 32768) = b + (2 * s - 32768)
  omega

theorem softlight_low {cb cs : Nat} (hcs : cs ≤ 16384) :
    blendSoftlight cb cs + (32768 - 2 * cs) * cb / 32768 * (32768 - cb) / 32768 = cb := by
  have hle : mul (mul (32768 - 2 * cs) cb) (32768 - cb) ≤ cb :=
    Nat.le_trans (mul_le_left (Nat.sub_le _ _)) (mul_le_right (Nat.sub_le _ _))
  rw [blendSoftlight, if_pos (show 2 * cs ≤ Config.one by rw [Config.one]; omega), Config.one,
    ← mul_eq, ← mul_eq]
  omega

theorem softlight_high {cb cs : Nat} (hcs : 16384 < cs) :
    blendSoftlight cb cs = cb + (2 * cs - 32768) * (softlightD cb - cb) / 32768 := by
  rw [blendSoftlight, if_neg (show ¬ 2 * cs ≤ Config.one by rw [Config.one]; omega), Config.one,
    mul_eq]

theorem softlightD_low {cb : Nat} (h : cb ≤ 8192) :
    softlightD cb = cb * (16 * (cb * cb / 32768) + 131072 - 12 * cb) / 32768 := by
  rw [softlightD, if_pos h, mul_eq, mul_eq]

theorem softlightD_high {cb : Nat} (h : 8192 < cb) : softlightD cb = isqrt (cb * 32768) := by
  simp only [softlightD, if_neg (Nat.not_le.mpr h), Nat.reducePow]

theorem blendColordodge_pos {cb cs : Nat} (hcb : 0 < cb) (hcs : cs < 32768) :
    blendColordodge cb cs = min 32768 (cb * 32768 / (32768 - cs)) := by
  rw [blendColordodge, if_neg (Nat.ne_of_gt hcb), Config.one, if_neg (Nat.not_le.mpr hcs), div_eq]

theorem blendColordodge_one {cb : Nat} (hcb : 0 < cb) : blendColordodge cb 32768 = 32768 := by
  rw [blendColordodge, if_neg (Nat.ne_of_gt hcb), Config.one, if_pos (Nat.le_refl _)]

theorem blendColorburn_zero {cb : Nat} (hcb : cb < 32768) : blendColorburn cb 0 = 0 := by
  rw [blendColorburn, Config.one, if_neg (Nat.not_le.mpr hcb), if_pos rfl]

theorem blendColorburn_pos {cb cs : Nat} (hcb : cb < 32768) (hcs : 0 < cs) :
    blendColorburn cb cs + min 32768 ((32768 - cb) * 32768 / cs) = 32768 := by
  rw [blendColorburn, Config.one, if_neg (Nat.not_le.mpr hcb), if_neg (Nat.ne_of_gt hcs), div_eq]
  exact Nat.sub_add_cancel (Nat.min_le_left _ _)

theorem blendDifference_add {cb cs : Nat} :
    (cb ≤ cs → blendDifference cb cs + cb = cs) ∧ (cs ≤ cb → blendDifference cb cs + cs = cb) := by
  unfold blendDifference
  split <;> omega

theorem blendExclusion_add {cb cs : Nat} (hcb : cb ≤ 32768) (hcs : cs ≤ 32768) :
    blendExclusion cb cs + 2 * (cb * cs / 32768) = cb + cs := by
  have hle : mul cb cs ≤ cb := mul_le_left hcs
  have hle' : mul cb cs ≤ cs := mul_le_right hcb
  rw [blendExclusion, ← mul_eq]
  omega

/-- Settles O28: one formula after another, the branch chosen by the argument that its rule tests. -/
theorem separableBlendFormulas : Obligations.SeparableBlendFormulas := by
  unfold Obligations.SeparableBlendFormulas
  intro cb cs hcb hcs
  refine ⟨rfl, rfl, blendScreen_add hcb, rfl, rfl, fun h => hard_low h, fun h => hard_high h hcb,
    fun h => hard_low h, fun h => hard_high h hcs, fun h => softlight_low h, fun h h' => ?_,
    fun h h' => ?_, rfl, fun h => blendColordodge_one h, fun h h' => blendColordodge_pos h h', ?_,
    fun h => blendColorburn_zero h, fun h h' => blendColorburn_pos h h', blendDifference_add.1,
    blendDifference_add.2, blendExclusion_add hcb hcs⟩
  · rw [softlight_high h, softlightD_low h']
  · rw [softlight_high h, softlightD_high h']
  · rw [blendColorburn, Config.one, if_pos (Nat.le_refl _)]

/-! ### The range law -/

/-- The union of two shares is at most the whole: `(1 - a)(1 - b)` is not negative. -/
theorem add_le_one_add_mul {a b : Nat} (ha : a ≤ 32768) (hb : b ≤ 32768) :
    a + b ≤ 32768 + mul a b := by
  suffices h : a + b - 32768 ≤ mul a b by omega
  rw [mul_eq, Nat.le_div_iff_mul_le (by decide)]
  rcases Nat.le_total (a + b) 32768 with h | h
  · rw [Nat.sub_eq_zero_of_le h, Nat.zero_mul]
    exact Nat.zero_le _
  · zify [h] at ha hb ⊢
    linarith only [mul_nonneg (sub_nonneg.mpr ha) (sub_nonneg.mpr hb)]

theorem hard_le {b s : Nat} (hb : b ≤ 32768) (hs : s ≤ 32768) : hard b s ≤ 32768 := by
  rcases Nat.lt_or_ge 16384 s with h | h
  · have hsum := hard_high (b := b) h hs
    have hle := add_le_one_add_mul (b := 2 * s - 32768) hb (by omega)
    rw [← mul_eq] at hsum
    omega
  · rw [hard_low h, ← mul_eq]
    exact Nat.le_trans (mul_le_left (by omega)) hb

/-- The curve of `SoftLight` stays in range (R187). -/
theorem softlightD_le {cb : Nat} (h : cb ≤ 32768) : softlightD cb ≤ 32768 := by
  rcases Nat.lt_or_ge 8192 cb with h' | h'
  · rw [softlightD_high h', isqrt_eq_sqrt]
    have hroot : (cb * 32768).sqrt ≤ (32768 * 32768).sqrt :=
      Nat.sqrt_le_sqrt (Nat.mul_le_mul_right _ h)
    rwa [Nat.sqrt_eq] at hroot
  · have hsq : 16 * (cb * cb / 32768) ≤ 12 * cb := by
      have : cb * cb ≤ cb * 8192 := Nat.mul_le_mul_left cb h'
      omega
    rw [softlightD_low h']
    calc cb * (16 * (cb * cb / 32768) + 131072 - 12 * cb) / 32768
        ≤ cb * 131072 / 32768 := Nat.div_le_div_right (Nat.mul_le_mul_left cb (by omega))
      _ ≤ 32768 := by omega

theorem blendSoftlight_le {cb cs : Nat} (hcb : cb ≤ 32768) (hcs : cs ≤ 32768) :
    blendSoftlight cb cs ≤ 32768 := by
  rcases Nat.lt_or_ge 16384 cs with h | h
  · have hD := softlightD_le hcb
    have hmul : mul (2 * cs - 32768) (softlightD cb - cb) ≤ softlightD cb - cb :=
      mul_le_right (by omega)
    rw [softlight_high h, ← mul_eq]
    omega
  · have hsum := softlight_low (cb := cb) h
    omega

theorem blendColordodge_le {cb cs : Nat} : blendColordodge cb cs ≤ 32768 := by
  unfold blendColordodge
  split_ifs
  · exact Nat.zero_le _
  · exact Nat.le_refl _
  · exact Nat.min_le_left _ _

theorem blendColorburn_le {cb cs : Nat} : blendColorburn cb cs ≤ 32768 := by
  unfold blendColorburn
  split_ifs
  · exact Nat.le_refl _
  · exact Nat.zero_le _
  · exact Nat.sub_le _ _

theorem blendScreen_le {cb cs : Nat} (hcb : cb ≤ 32768) (hcs : cs ≤ 32768) :
    blendScreen cb cs ≤ 32768 := by
  have hle := add_le_one_add_mul hcs hcb
  rw [blendScreen]
  omega

theorem blendDifference_le {cb cs : Nat} (hcb : cb ≤ 32768) (hcs : cs ≤ 32768) :
    blendDifference cb cs ≤ 32768 := by
  unfold blendDifference
  split <;> omega

theorem blendExclusion_le {cb cs : Nat} (hcb : cb ≤ 32768) (hcs : cs ≤ 32768) :
    blendExclusion cb cs ≤ 32768 := by
  have hle := add_le_one_add_mul hcb hcs
  rw [blendExclusion]
  omega

/-- A colour with every channel in range (R177). -/
def Rgb.InRange (c : Rgb) : Prop := c.r ≤ 32768 ∧ c.g ≤ 32768 ∧ c.b ≤ 32768

/-- A blend function keeps the range. -/
def KeepsRange (B : Rgb → Rgb → Rgb) : Prop :=
  ∀ cb cs : Rgb, cb.InRange → cs.InRange → (B cb cs).InRange

theorem keepsRange_separable {f : Nat → Nat → Nat}
    (h : ∀ cb cs, cb ≤ 32768 → cs ≤ 32768 → f cb cs ≤ 32768) : KeepsRange (separable f) := by
  rintro cb cs ⟨hbr, hbg, hbb⟩ ⟨hsr, hsg, hsb⟩
  exact ⟨h _ _ hbr hsr, h _ _ hbg hsg, h _ _ hbb hsb⟩

/-- The final clamp of `SetLum` (R176). -/
theorem clamp_toNat_le (v : Int) : (clamp v 0 32768).toNat ≤ 32768 := by
  unfold clamp
  omega

theorem setLum_inRange (c : Rgb) (l : Nat) : (setLum c l).InRange :=
  ⟨clamp_toNat_le _, clamp_toNat_le _, clamp_toNat_le _⟩

/-- R177: each blend function of a mode keeps the range. -/
theorem keepsRange_blendModes {e : (Bool → Slot → Slot → Instr) × (Rgb → Rgb → Rgb)}
    (he : e ∈ blendModes) : KeepsRange e.2 := by
  simp only [blendModes, List.mem_cons, List.not_mem_nil, or_false] at he
  rcases he with rfl | rfl | rfl | rfl | rfl | rfl | rfl | rfl | rfl | rfl | rfl | rfl | rfl | rfl |
    rfl
  · exact keepsRange_separable fun _ _ hb hs => Nat.le_trans (mul_le_left hb) hs
  · exact keepsRange_separable fun _ _ hb hs => blendScreen_le hb hs
  · exact keepsRange_separable fun _ _ _ hs => Nat.le_trans (Nat.min_le_left _ _) hs
  · exact keepsRange_separable fun _ _ hb hs => Nat.max_le.mpr ⟨hs, hb⟩
  · exact keepsRange_separable fun _ _ hb hs => hard_le hs hb
  · exact keepsRange_separable fun _ _ hb hs => hard_le hb hs
  · exact keepsRange_separable fun _ _ hb hs => blendSoftlight_le hb hs
  · exact keepsRange_separable fun _ _ _ _ => blendColordodge_le
  · exact keepsRange_separable fun _ _ _ _ => blendColorburn_le
  · exact keepsRange_separable fun _ _ hb hs => blendDifference_le hb hs
  · exact keepsRange_separable fun _ _ hb hs => blendExclusion_le hb hs
  · exact fun _ _ _ _ => setLum_inRange _ _
  · exact fun _ _ _ _ => setLum_inRange _ _
  · exact fun _ _ _ _ => setLum_inRange _ _
  · exact fun _ _ _ _ => setLum_inRange _ _

/-- Settles O29: the separable functions keep the range channel by channel, the others end in the
clamp of `SetLum`. -/
theorem blendRangeLaw : Obligations.BlendRangeLaw := by
  unfold Obligations.BlendRangeLaw
  intro cb cs hbr hbg hbb hsr hsg hsb B hB
  rcases List.mem_cons.mp hB with rfl | hB
  · exact ⟨hsr, hsg, hsb⟩
  · obtain ⟨e, he, rfl⟩ := List.mem_map.mp hB
    exact keepsRange_blendModes he cb cs ⟨hbr, hbg, hbb⟩ ⟨hsr, hsg, hsb⟩

end Sys2Proof.Machine
end

section
/-! PROOFS. The helpers of the non-separable modes (42_blend_modes.md R173 to R176) and their grey
cases (R192 to R195). -/

namespace Sys2Proof.Machine

open Sys2Proof

/-! ### Luminosity and saturation -/

theorem lum_eq (c : Rgb) : lum c = (9830 * c.r + 19333 * c.g + 3605 * c.b) / 32768 := rfl

theorem sat_eq (c : Rgb) : sat c = max c.r (max c.g c.b) - min c.r (min c.g c.b) := rfl

/-- The weights add up to 1.0, so a grey has its own value as its luminosity. -/
theorem lum_grey (v : Nat) : lum ⟨v, v, v⟩ = v := by
  rw [lum_eq]
  dsimp only
  omega

theorem lum_le {c : Rgb} (h : c.InRange) : lum c ≤ 32768 := by
  obtain ⟨hr, hg, hb⟩ := h
  rw [lum_eq]
  omega

theorem sat_grey (v : Nat) : sat ⟨v, v, v⟩ = 0 := by
  simp [sat_eq]

/-! ### `SetSat` -/

/-- A channel's distance from the least one, scaled so that the greatest becomes `s` (R175). -/
def satScale (mn mx s v : Nat) : Nat := (v - mn) * s / (mx - mn)

theorem satScale_monotone (mn mx s : Nat) : Monotone (satScale mn mx s) := fun _ _ h =>
  Nat.div_le_div_right (Nat.mul_le_mul_right s (Nat.sub_le_sub_right h mn))

theorem satScale_least (mn mx s : Nat) : satScale mn mx s mn = 0 := by
  rw [satScale, Nat.sub_self, Nat.zero_mul, Nat.zero_div]

theorem satScale_greatest {mn mx : Nat} (h : mn < mx) (s : Nat) : satScale mn mx s mx = s :=
  Nat.mul_div_cancel_left s (Nat.sub_pos_of_lt h)

/-- Where the channels differ `SetSat` scales each. -/
theorem setSat_of_lt {c : Rgb} (s : Nat) (h : c.min3 < c.max3) :
    setSat c s = ⟨satScale c.min3 c.max3 s c.r, satScale c.min3 c.max3 s c.g,
      satScale c.min3 c.max3 s c.b⟩ := by
  rw [setSat]
  exact if_pos h

/-- Where they are all equal it is black. -/
theorem setSat_of_eq {c : Rgb} (s : Nat) (h : c.min3 = c.max3) : setSat c s = ⟨0, 0, 0⟩ := by
  rw [setSat]
  exact if_neg (Nat.not_lt.mpr (Nat.le_of_eq h.symm))

/-- The least channel of the scaled colour is the scaled least channel, 0. -/
theorem setSat_min3 {c : Rgb} (s : Nat) (h : c.min3 < c.max3) : (setSat c s).min3 = 0 := by
  have hmono := satScale_monotone c.min3 c.max3 s
  rw [setSat_of_lt s h, Rgb.min3, ← hmono.map_min, ← hmono.map_min]
  exact satScale_least c.min3 c.max3 s

/-- The greatest is the scaled greatest, `s`. -/
theorem setSat_max3 {c : Rgb} (s : Nat) (h : c.min3 < c.max3) : (setSat c s).max3 = s := by
  have hmono := satScale_monotone c.min3 c.max3 s
  rw [setSat_of_lt s h, Rgb.max3, ← hmono.map_max, ← hmono.map_max]
  exact satScale_greatest h s

theorem setSat_grey (v s : Nat) : setSat ⟨v, v, v⟩ s = ⟨0, 0, 0⟩ :=
  setSat_of_eq s (by simp [Rgb.min3, Rgb.max3])

/-- With saturation 0 every channel scales to 0. -/
theorem setSat_zero (c : Rgb) : setSat c 0 = ⟨0, 0, 0⟩ := by
  rcases Nat.lt_or_ge c.min3 c.max3 with h | h
  · simp only [setSat_of_lt 0 h, satScale, Nat.mul_zero, Nat.zero_div]
  · exact setSat_of_eq 0 (Nat.le_antisymm (by rw [Rgb.min3, Rgb.max3]; omega) h)

/-! ### `SetLum` -/

/-- The signed distance that `SetLum` moves each channel (R176). -/
def lumShift (c : Rgb) (l : Nat) : Int := (l : Int) - (lum c : Int)

/-- The least channel after the move. -/
def shiftedLow (c : Rgb) (l : Nat) : Int :=
  min ((c.r : Int) + lumShift c l) (min ((c.g : Int) + lumShift c l) ((c.b : Int) + lumShift c l))

/-- The greatest channel after the move. -/
def shiftedHigh (c : Rgb) (l : Nat) : Int :=
  max ((c.r : Int) + lumShift c l) (max ((c.g : Int) + lumShift c l) ((c.b : Int) + lumShift c l))

/-- `SetLum` on one channel, before the final clamp. -/
def lumChannel (c : Rgb) (l v : Nat) : Int :=
  clipChannel (shiftedLow c l) (shiftedHigh c l) l ((v : Int) + lumShift c l)

theorem setLum_eq (c : Rgb) (l : Nat) :
    setLum c l = ⟨(clamp (lumChannel c l c.r) 0 32768).toNat,
      (clamp (lumChannel c l c.g) 0 32768).toNat, (clamp (lumChannel c l c.b) 0 32768).toNat⟩ := rfl

theorem clipChannel_low {n x l v : Int} (hn : n < 0) (hl : 0 ≤ l) :
    clipChannel n x l v = l + (v - l) * l / (l - n) := by
  rw [clipChannel, if_pos hn, fdiv, Int.fdiv_eq_ediv_of_nonneg _ (by omega)]

theorem clipChannel_high {n x l v : Int} (hn : 0 ≤ n) (hx : 32768 < x) (hl : l ≤ 32768) :
    clipChannel n x l v = l + (v - l) * (32768 - l) / (x - l) := by
  rw [clipChannel, if_neg (Int.not_lt.mpr hn), if_pos hx, fdiv,
    Int.fdiv_eq_ediv_of_nonneg _ (by omega)]

theorem clipChannel_mid {n x l v : Int} (hn : 0 ≤ n) (hx : x ≤ 32768) : clipChannel n x l v = v := by
  rw [clipChannel, if_neg (Int.not_lt.mpr hn), if_neg (Int.not_lt.mpr hx)]

/-- A distance scaled by a ratio of at most 1 lies between itself and 0. -/
theorem scaled_between {u p q : Int} (hp : 0 ≤ p) (hpq : p ≤ q) (hq : 0 < q) :
    min u 0 ≤ u * p / q ∧ u * p / q ≤ max u 0 := by
  rcases le_total 0 u with hu | hu
  · rw [min_eq_right hu, max_eq_left hu]
    exact ⟨Int.ediv_nonneg (mul_nonneg hu hp) hq.le,
      Int.ediv_le_of_le_mul hq (mul_le_mul_of_nonneg_left hpq hu)⟩
  · rw [min_eq_left hu, max_eq_right hu]
    exact ⟨(Int.le_ediv_iff_mul_le hq).mpr (mul_le_mul_of_nonpos_left hpq hu),
      Int.ediv_le_of_le_mul hq (by
        rw [zero_mul]
        exact mul_nonpos_of_nonpos_of_nonneg hu hp)⟩

/-- The clip leaves a channel in range, so that the final clamp changes nothing. -/
theorem clipChannel_range {n x l v : Int} (hl : 0 ≤ l) (hl' : l ≤ 32768) (hn : n ≤ v) (hx : v ≤ x)
    (hspan : x - n ≤ 32768) : 0 ≤ clipChannel n x l v ∧ clipChannel n x l v ≤ 32768 := by
  by_cases h : n < 0
  case pos =>
    obtain ⟨_, hhi⟩ := scaled_between (u := v - l) hl (show l ≤ l - n by omega) (by omega)
    have hlo : -l ≤ (v - l) * l / (l - n) := by
      rw [Int.le_ediv_iff_mul_le (by omega)]
      nlinarith only [mul_le_mul_of_nonneg_right hn hl]
    rw [clipChannel_low h hl]
    omega
  case neg =>
    by_cases h' : 32768 < x
    case pos =>
      obtain ⟨hlo, _⟩ := scaled_between (u := v - l) (show 0 ≤ 32768 - l by omega)
        (show 32768 - l ≤ x - l by omega) (by omega)
      have hhi : (v - l) * (32768 - l) / (x - l) ≤ 32768 - l := by
        refine Int.ediv_le_of_le_mul (by omega) ?_
        nlinarith only [mul_le_mul_of_nonneg_right hx (show 0 ≤ 32768 - l by omega)]
      rw [clipChannel_high (Int.not_lt.mp h) h' hl']
      omega
    case neg =>
      rw [clipChannel_mid (Int.not_lt.mp h) (Int.not_lt.mp h')]
      omega

theorem clamp_of_range {v : Int} (h0 : 0 ≤ v) (h1 : v ≤ 32768) :
    ((clamp v 0 32768).toNat : Int) = v := by
  rw [clamp, max_eq_right h0, min_eq_right h1, Int.toNat_of_nonneg h0]

section range

variable {c : Rgb} {l : Nat} (hc : c.InRange) (hl : l ≤ 32768)

include hc in
/-- The moved channels lie within 1.0 of each other. -/
theorem shifted_span : shiftedHigh c l - shiftedLow c l ≤ 32768 := by
  obtain ⟨hr, hg, hb⟩ := hc
  unfold shiftedHigh shiftedLow
  omega

include hc hl

/-- Each channel of `SetLum` is its clip. -/
theorem setLum_channel {ch : Rgb → Nat} (hch : ch ∈ [Rgb.r, Rgb.g, Rgb.b]) :
    (ch (setLum c l) : Int) = lumChannel c l (ch c) := by
  have hspan := shifted_span (l := l) hc
  have hclip (v : Nat) (hlo : shiftedLow c l ≤ v + lumShift c l)
      (hhi : v + lumShift c l ≤ shiftedHigh c l) :
      ((clamp (lumChannel c l v) 0 32768).toNat : Int) = lumChannel c l v := by
    obtain ⟨h0, h1⟩ := clipChannel_range (Int.natCast_nonneg l) (by omega) hlo hhi hspan
    exact clamp_of_range h0 h1
  rw [setLum_eq]
  simp only [List.mem_cons, List.not_mem_nil, or_false] at hch
  rcases hch with rfl | rfl | rfl
  · exact hclip c.r (by unfold shiftedLow; omega) (by unfold shiftedHigh; omega)
  · exact hclip c.g (by unfold shiftedLow; omega) (by unfold shiftedHigh; omega)
  · exact hclip c.b (by unfold shiftedLow; omega) (by unfold shiftedHigh; omega)

omit hc hl in
/-- The weighted sum of three distances, each scaled by the same ratio of at most 1 and rounded down:
where the sum of the distances lies in one unit from 0 on, the result lies less than a unit from 0. -/
theorem weighted_scaled {u v w p q : Int} (hp : 0 ≤ p) (hpq : p ≤ q) (hq : 0 < q)
    (hlo : 0 ≤ 9830 * u + 19333 * v + 3605 * w) (hhi : 9830 * u + 19333 * v + 3605 * w < 32768) :
    -32768 < 9830 * (u * p / q) + 19333 * (v * p / q) + 3605 * (w * p / q) ∧
      9830 * (u * p / q) + 19333 * (v * p / q) + 3605 * (w * p / q) < 32768 := by
  have floor (t : Int) : q * (t * p / q) ≤ t * p ∧ t * p < q * (t * p / q) + q :=
    ⟨Int.mul_ediv_self_le hq.ne', Int.lt_mul_ediv_self_add hq⟩
  obtain ⟨hu, hu'⟩ := floor u
  obtain ⟨hv, hv'⟩ := floor v
  obtain ⟨hw, hw'⟩ := floor w
  generalize u * p / q = a at *
  generalize v * p / q = b at *
  generalize w * p / q = d at *
  have hsum : (9830 * u + 19333 * v + 3605 * w) * p ≤ (9830 * u + 19333 * v + 3605 * w) * q :=
    mul_le_mul_of_nonneg_left hpq hlo
  have hpos : 0 ≤ (9830 * u + 19333 * v + 3605 * w) * p := mul_nonneg hlo hp
  have hlt : (9830 * u + 19333 * v + 3605 * w) * q < 32768 * q := mul_lt_mul_of_pos_right hhi hq
  constructor
  · refine lt_of_mul_lt_mul_left (a := q) ?_ hq.le
    linarith only [hu', hv', hw', hpos]
  · refine lt_of_mul_lt_mul_left (a := q) ?_ hq.le
    linarith only [hu, hv, hw, hsum, hlt]

/-- The luminosity reached: exact where no channel is clipped, at most one unit low where one is. -/
theorem lum_setLum : lum (setLum c l) = l ∨ lum (setLum c l) + 1 = l := by
  have hr := setLum_channel hc hl (ch := Rgb.r) (by simp)
  have hg := setLum_channel hc hl (ch := Rgb.g) (by simp)
  have hb := setLum_channel hc hl (ch := Rgb.b) (by simp)
  have hshift : lumShift c l = l - lum c := rfl
  have hsum : lum c = (9830 * c.r + 19333 * c.g + 3605 * c.b) / 32768 := lum_eq c
  have hspan := shifted_span (l := l) hc
  unfold lumChannel at hr hg hb
  rw [lum_eq]
  by_cases hn : shiftedLow c l < 0
  case pos =>
    rw [clipChannel_low hn (by omega)] at hr hg hb
    obtain ⟨h0, h1⟩ := weighted_scaled (u := (c.r : Int) + lumShift c l - l)
      (v := (c.g : Int) + lumShift c l - l) (w := (c.b : Int) + lumShift c l - l)
      (p := l) (q := l - shiftedLow c l) (by omega) (by omega) (by omega) (by omega) (by omega)
    omega
  case neg =>
    by_cases hx : 32768 < shiftedHigh c l
    case pos =>
      rw [clipChannel_high (Int.not_lt.mp hn) hx (by omega)] at hr hg hb
      obtain ⟨h0, h1⟩ := weighted_scaled (u := (c.r : Int) + lumShift c l - l)
        (v := (c.g : Int) + lumShift c l - l) (w := (c.b : Int) + lumShift c l - l)
        (p := 32768 - l) (q := shiftedHigh c l - l) (by omega) (by omega) (by omega) (by omega)
        (by omega)
      omega
    case neg =>
      rw [clipChannel_mid (Int.not_lt.mp hn) (Int.not_lt.mp hx)] at hr hg hb
      omega

end range

/-- Settles O30: the definitions read off, `SetSat` by the monotone `satScale`, `SetLum` by its clip,
which the clamp leaves alone. -/
theorem setSatAndSetLum : Obligations.SetSatAndSetLum := by
  unfold Obligations.SetSatAndSetLum
  refine ⟨fun c => ⟨lum_eq c, sat_eq c⟩, fun c s => ⟨fun h => setSat_of_lt s h, fun h =>
    setSat_of_eq s h⟩, fun c s hne => ?_, fun c l hr hg hb hl => ⟨fun ch hch => ?_, ?_⟩⟩
  · have h : c.min3 < c.max3 := by
      unfold Rgb.min3 Rgb.max3
      omega
    have hmono := satScale_monotone c.min3 c.max3 s
    refine ⟨?_, setSat_min3 s h, setSat_max3 s h, ?_⟩
    · rw [sat, setSat_min3 s h, setSat_max3 s h, Nat.sub_zero]
    · rw [setSat_of_lt s h]
      exact ⟨fun h => hmono h, fun h => hmono h, fun h => hmono h, fun h => hmono h,
        fun h => hmono h, fun h => hmono h⟩
  · have hspan := shifted_span (l := l) ⟨hr, hg, hb⟩
    have hchan := setLum_channel ⟨hr, hg, hb⟩ hl hch
    refine ⟨fun hn hx => hchan.trans (clipChannel_mid hn hx),
      fun hn => hchan.trans (if_pos hn), fun hx => hchan.trans ?_⟩
    have hn : ¬ shiftedLow c l < 0 := by
      have hx' : 32768 < shiftedHigh c l := hx
      omega
    exact (if_neg hn).trans (if_pos hx)
  · rcases lum_setLum ⟨hr, hg, hb⟩ hl with h | h
    · exact .inl h
    · exact .inr (.inl h)

/-! ### Grey colours -/

/-- Every grey moves to the grey of the luminosity asked for. -/
theorem setLum_grey {v l : Nat} (hv : v ≤ 32768) (hl : l ≤ 32768) :
    setLum ⟨v, v, v⟩ l = ⟨l, l, l⟩ := by
  have hchan {ch : Rgb → Nat} (hch : ch ∈ [Rgb.r, Rgb.g, Rgb.b]) (hgrey : ch ⟨v, v, v⟩ = v) :
      ch (setLum ⟨v, v, v⟩ l) = l := by
    have h := setLum_channel (c := ⟨v, v, v⟩) ⟨hv, hv, hv⟩ hl hch
    have hmove : (v : Int) + lumShift ⟨v, v, v⟩ l = l := by
      rw [lumShift, lum_grey]
      omega
    rw [hgrey, lumChannel, shiftedLow, shiftedHigh, hmove, clipChannel_mid (by omega) (by omega)] at h
    exact Int.ofNat.inj h
  have hr := hchan (ch := Rgb.r) (by simp) rfl
  have hg := hchan (ch := Rgb.g) (by simp) rfl
  have hb := hchan (ch := Rgb.b) (by simp) rfl
  show Rgb.mk (setLum ⟨v, v, v⟩ l).r (setLum ⟨v, v, v⟩ l).g (setLum ⟨v, v, v⟩ l).b = ⟨l, l, l⟩
  rw [hr, hg, hb]

/-- Settles O31: the modes by definition, and the grey cases because the saturation of a grey is 0 and
`SetLum` of a grey is the grey asked for. -/
theorem nonSeparableGreyCases : Obligations.NonSeparableGreyCases := by
  unfold Obligations.NonSeparableGreyCases
  refine ⟨fun _ _ => ⟨rfl, rfl, rfl, rfl⟩, fun c v hr hg hb hv => ?_⟩
  have hblack {l : Nat} (hl : l ≤ 32768) : setLum ⟨0, 0, 0⟩ l = ⟨l, l, l⟩ :=
    setLum_grey (Nat.zero_le _) hl
  have hlum : lum c ≤ 32768 := lum_le ⟨hr, hg, hb⟩
  refine ⟨?_, ?_, ?_, ?_, ?_, ?_⟩
  · rw [blendHue, sat_grey, setSat_zero, lum_grey, hblack hv]
  · rw [blendSaturation, setSat_grey, lum_grey, hblack hv]
  · rw [blendHue, setSat_grey, hblack hlum]
  · rw [blendSaturation, sat_grey, setSat_zero, hblack hlum]
  · rw [blendColor, setLum_grey hv hlum]
  · rw [blendLuminosity, setLum_grey hv hlum]

end Sys2Proof.Machine
end

section
/-! PROOFS. The results of the compositing engine (41_composite.md R142 to R149): each mode's pixel rule
keeps the tile's invariant, and a command leaves its results up to the first failing check. -/

namespace Sys2Proof.Machine

open Sys2Proof

/-! ### The pixel rules in numbers -/

/-- The pixel that the colour rule leaves on source `S` and destination `D`: the result alpha with
`HA` = 1, the old one with `HA` = 0 (R142, R143). -/
def compPixelOf (colour : CompIn → Rgb) (op : Nat) (ha : Bool) (S D : Pixel) : Pixel :=
  let c := colour ⟨S, D, op, ha⟩
  ⟨c.r, c.g, c.b, if ha = true then CompIn.outAlpha ⟨S, D, op, ha⟩ else D.a⟩

theorem normalResult_eq : compPixelOf normalColour = normalResult := by
  funext op ha S D
  cases ha <;> rfl

theorem blendResult_eq (B : Rgb → Rgb → Rgb) : compPixelOf (blendColour B) = blendResult B := by
  funext op ha S D
  cases ha <;> rfl

/-- Every mode is the common procedure with a colour rule whose pixel is the mode's result. -/
theorem exec_compModes_rule {e : (Bool → Slot → Slot → Instr) × (Nat → Bool → Pixel → Pixel → Pixel)}
    (he : e ∈ compModes) : ∃ colour, compPixelOf colour = e.2 ∧
      ∀ ha sa sb s, exec (e.1 ha sa sb) s = .next (composite colour ha sa sb s) := by
  rcases List.mem_cons.mp he with rfl | hblend
  · exact ⟨normalColour, normalResult_eq, fun _ _ _ _ => rfl⟩
  · obtain ⟨b, hb, rfl⟩ := List.mem_map.mp hblend
    exact ⟨blendColour b.2, blendResult_eq b.2, exec_blendModes hb⟩

/-! ### The tile's invariant -/

/-- The rule keeps pixels that pass the checks fit to pass them again (R147, R143). -/
def KeepsTile (result : Nat → Bool → Pixel → Pixel → Pixel) : Prop :=
  ∀ (op : Nat) (S D : Pixel), op ≤ 32768 → S.Premul →
    (D.Premul → (result op true S D).Premul) ∧
    (D.Range3 → (result op false S D).Range3 ∧ (result op false S D).a = D.a)

/-- A share of the source over the rest of the destination is at most 1.0. -/
theorem share_over_le {as d : Nat} (has : as ≤ 32768) (hd : d ≤ 32768) :
    as + mul (32768 - as) d ≤ 32768 := by
  have h : mul (32768 - as) d ≤ 32768 - as := mul_le_left hd
  omega

/-- A colour of the source-over rule is at most its alpha (R150). -/
theorem normal_channel_le {sc sa dc da op : Nat} (hs : sc ≤ sa) (hd : dc ≤ da) :
    mul sc op + mul (32768 - mul sa op) dc ≤ mul sa op + mul (32768 - mul sa op) da :=
  Nat.add_le_add (mul_mono hs (Nat.le_refl op)) (mul_mono (Nat.le_refl _) hd)

theorem normalResult_keepsTile : KeepsTile normalResult := by
  rintro op S D hop ⟨hr, hg, hb, ha⟩
  have has : mul S.a op ≤ 32768 := Nat.le_trans (mul_le_left hop) ha
  refine ⟨fun ⟨hdr, hdg, hdb, hda⟩ => ?_, fun ⟨hdr, hdg, hdb⟩ => ⟨⟨?_, ?_, ?_⟩, rfl⟩⟩
  · exact ⟨normal_channel_le hr hdr, normal_channel_le hg hdg, normal_channel_le hb hdb,
      share_over_le has hda⟩
  · exact Nat.le_trans (normal_channel_le hr hdr) (share_over_le has (Nat.le_refl _))
  · exact Nat.le_trans (normal_channel_le hg hdg) (share_over_le has (Nat.le_refl _))
  · exact Nat.le_trans (normal_channel_le hb hdb) (share_over_le has (Nat.le_refl _))

/-- A colour of the three-term rule is at most its alpha (R146): the source's share of the backdrop
and of the rest together is at most its alpha. -/
theorem blend_channel_le {sc sa dc ab bc op : Nat} (hs : sc ≤ sa) (hd : dc ≤ ab) (hab : ab ≤ 32768)
    (hbc : bc ≤ 32768) :
    mul (mul sc op) (32768 - ab) + mul (mul (mul sa op) ab) bc + mul (32768 - mul sa op) dc ≤
      mul sa op + mul (32768 - mul sa op) ab := by
  have hout : mul (mul sc op) (32768 - ab) ≤ mul (mul sa op) (32768 - ab) :=
    mul_mono (mul_mono hs (Nat.le_refl op)) (Nat.le_refl _)
  have hin : mul (mul (mul sa op) ab) bc ≤ mul (mul sa op) ab := mul_le_left hbc
  have hkeep : mul (32768 - mul sa op) dc ≤ mul (32768 - mul sa op) ab := mul_mono (Nat.le_refl _) hd
  rcases mul_add_mul_compl (a := mul sa op) hab with h | h <;> omega

theorem straight_le (c a : Nat) : straight c a ≤ 32768 := by
  unfold straight
  split
  · exact Nat.zero_le _
  · exact Nat.min_le_right _ _

theorem blendResult_keepsTile {B : Rgb → Rgb → Rgb} (hB : KeepsRange B) :
    KeepsTile (blendResult B) := by
  rintro op S D hop ⟨hr, hg, hb, ha⟩
  have has : mul S.a op ≤ 32768 := Nat.le_trans (mul_le_left hop) ha
  have hcs : Rgb.InRange ⟨straight S.r S.a, straight S.g S.a, straight S.b S.a⟩ :=
    ⟨straight_le _ _, straight_le _ _, straight_le _ _⟩
  refine ⟨fun ⟨hdr, hdg, hdb, hda⟩ => ?_, fun ⟨hdr, hdg, hdb⟩ => ?_⟩
  · obtain ⟨hor, hog, hob⟩ :=
      hB ⟨straight D.r D.a, straight D.g D.a, straight D.b D.a⟩ _
        ⟨straight_le _ _, straight_le _ _, straight_le _ _⟩ hcs
    exact ⟨blend_channel_le hr hdr hda hor, blend_channel_le hg hdg hda hog,
      blend_channel_le hb hdb hda hob, share_over_le has hda⟩
  · obtain ⟨hor, hog, hob⟩ := hB ⟨D.r, D.g, D.b⟩ _ ⟨hdr, hdg, hdb⟩ hcs
    have hfull : mul S.a op + mul (32768 - mul S.a op) 32768 ≤ 32768 :=
      share_over_le has (Nat.le_refl _)
    exact ⟨⟨Nat.le_trans (blend_channel_le hr hdr (Nat.le_refl _) hor) hfull,
      Nat.le_trans (blend_channel_le hg hdg (Nat.le_refl _) hog) hfull,
      Nat.le_trans (blend_channel_le hb hdb (Nat.le_refl _) hob) hfull⟩, rfl⟩

/-- Settles O35: by the source-over rule, or by the three-term rule with a blend function that keeps
the range. -/
theorem compKeepsTileInvariant : Obligations.CompKeepsTileInvariant := by
  unfold Obligations.CompKeepsTileInvariant
  intro e he
  rcases List.mem_cons.mp he with rfl | hblend
  · exact normalResult_keepsTile
  · obtain ⟨b, hb, rfl⟩ := List.mem_map.mp hblend
    exact blendResult_keepsTile (keepsRange_blendModes hb)

/-! ### The store of one pixel -/

theorem Pixel.Premul.range4 {p : Pixel} (h : p.Premul) : p.Range4 := by
  obtain ⟨hr, hg, hb, ha⟩ := h
  exact ⟨by omega, by omega, by omega, ha⟩

/-- A pixel in range fits the cells it is stored in. -/
theorem Memory.pixel16_setPixel16_range {m : Memory} {s : Slot} {i : Nat} {p : Pixel}
    (h : p.Range4) : (m.setPixel16 s i p).pixel16 s i = p := by
  obtain ⟨hr, hg, hb, ha⟩ := h
  exact Memory.pixel16_setPixel16 m s i p (by omega) (by omega) (by omega) (by omega)

theorem Memory.pixel16_setColour16_range {m : Memory} {s : Slot} {i : Nat} {c : Rgb}
    (h : c.InRange) :
    (m.setColour16 s i c).pixel16 s i = ⟨c.r, c.g, c.b, (m.pixel16 s i).a⟩ := by
  obtain ⟨hr, hg, hb⟩ := h
  exact Memory.pixel16_setColour16 m s i c (by omega) (by omega) (by omega)

/-- The store of a position leaves the result of its two pixels. -/
theorem pixel16_compStore {colour : CompIn → Rgb} (hkeeps : KeepsTile (compPixelOf colour))
    {op : Nat} (hop : op ≤ 32768) {ha : Bool} {sa : Slot} {i : Nat} {m : Memory} {S : Pixel}
    (hS : S.Premul) (hD : (m.pixel16 sa i).CompDst ha) :
    (compStore ha sa i (colour ⟨S, m.pixel16 sa i, op, ha⟩)
        (CompIn.outAlpha ⟨S, m.pixel16 sa i, op, ha⟩) m).pixel16 sa i =
      compPixelOf colour op ha S (m.pixel16 sa i) := by
  obtain ⟨hpremul, hrange⟩ := hkeeps op S (m.pixel16 sa i) hop hS
  cases ha with
  | true => exact Memory.pixel16_setPixel16_range (hpremul hD).range4
  | false => exact Memory.pixel16_setColour16_range (hrange hD).1

/-! ### The commands -/

theorem not_inPixel16 {s : Slot} {i x : Nat} (h : ¬ inPixel16 s i x) : ¬ foot16 s i x :=
  fun hf => h (foot16_iff.mp hf)

/-- A scan of `n` positions comes to position `k`: past the last one with no fault, or to one whose
check fails. -/
def ScanEnds (n k : Nat) (fault o : Option FaultRec) : Prop :=
  (k = n ∧ o = none) ∨ ∃ f, k < n ∧ fault = some f ∧ o = some f

/-- A local scan whose checks pass up to position `k`, where it ends: each position before has its
result on the memory the scan began with, and no other byte has changed (60_exceptions.md R307). -/
theorem PixelLocal.scan_until {n : Nat} {foot : Nat → Nat → Prop}
    {fault : Nat → Memory → Option FaultRec} {store : Nat → Memory → Memory}
    (L : PixelLocal n foot fun i m => checked (fault i m) (store i m)) {m : Memory} {k : Nat}
    {o : Option FaultRec} (hpass : ∀ j, j < k → fault j m = none)
    (hend : ScanEnds n k (fault k m) o) :
    ∃ m', scanFrom (fun i m => checked (fault i m) (store i m)) 0 n m = (m', o) ∧
      (∀ j x, j < k → foot j x → m'.read x = (store j m).read x) ∧
      ∀ x, (∀ j, j < k → ¬ foot j x) → m'.read x = m.read x := by
  have hok (j : Nat) (hj : j < k) : checked (fault j m) (store j m) = .ok (store j m) :=
    checked_ok.mpr ⟨hpass j hj, rfl⟩
  rcases hend with ⟨rfl, rfl⟩ | ⟨f, hk, hf, rfl⟩
  · obtain ⟨m', hscan, hin, hout⟩ := L.completes m fun j hj => ⟨_, hok j hj⟩
    exact ⟨m', hscan, fun j x hj hx => hin j _ x hj (hok j hj) hx, hout⟩
  · obtain ⟨m', hscan, hin, hout⟩ :=
      L.faults m k f hk (fun j hj => ⟨_, hok j hj⟩) (checked_error.mpr hf)
    exact ⟨m', hscan, fun j x hj hx => hin j _ x hj (hok j hj) hx, hout⟩

theorem PixelLocal.scanTile_until {foot : Nat → Nat → Prop}
    {fault : Nat → Memory → Option FaultRec} {store : Nat → Memory → Memory}
    (L : PixelLocal 4096 foot fun i m => checked (fault i m) (store i m)) {m : Memory} {k : Nat}
    {o : Option FaultRec} (hpass : ∀ j, j < k → fault j m = none)
    (hend : ScanEnds 4096 k (fault k m) o) :
    ∃ m', scanTile (fun i m => checked (fault i m) (store i m)) m = (m', o) ∧
      (∀ j x, j < k → foot j x → m'.read x = (store j m).read x) ∧
      ∀ x, (∀ j, j < k → ¬ foot j x) → m'.read x = m.read x := by
  rw [scanTile_eq]
  exact L.scan_until hpass hend

/-- The scan of `COMP.*` up to pixel `k`, where it ends or meets its first failing check. -/
theorem comp_scan {colour : CompIn → Rgb} (hkeeps : KeepsTile (compPixelOf colour)) {op : Nat}
    (hop : op ≤ 32768) {ha : Bool} {sa sb : Slot} {m : Memory} {k : Nat} {o : Option FaultRec}
    (hpass : ∀ j, j < k → (m.pixel16 sb j).Premul ∧ (m.pixel16 sa j).CompDst ha)
    (hend : ScanEnds 4096 k (compCheck ha k (m.pixel16 sb k) (m.pixel16 sa k)) o) :
    ∃ m', scanTile (compPixel colour op ha sa sb) m = (m', o) ∧
      (∀ j, j < k →
        m'.pixel16 sa j = compPixelOf colour op ha (m.pixel16 sb j) (m.pixel16 sa j)) ∧
      ∀ x, (∀ j, j < k → ¬ inPixel16 sa j x) → m'.read x = m.read x := by
  obtain ⟨m', hscan, hin, hout⟩ := (compPixel_local colour op ha sa sb).scanTile_until
    (fun j hj => compCheck_eq_none.mpr (hpass j hj)) hend
  refine ⟨m', hscan, fun j hj => ?_, fun x hx => hout x fun j hj => not_inPixel16 (hx j hj)⟩
  obtain ⟨hS, hD⟩ := hpass j hj
  rw [Memory.pixel16_eq fun x hx => hin j x hj hx, pixel16_compStore hkeeps hop hS hD]

/-- A mode whose opacity is not zero is its scan. -/
theorem exec_compMode {e : (Bool → Slot → Slot → Instr) × (Nat → Bool → Pixel → Pixel → Pixel)}
    (he : e ∈ compModes) {ha : Bool} {sa sb : Slot} {s : State} (hsa : sa.toNat < 4)
    (hsb : sb.toNat < 4) (hpos : 1 ≤ s.opacity.toNat) (hop : s.opacity.toNat ≤ 32768) {k : Nat}
    {o : Option FaultRec}
    (hpass : ∀ j, j < k → (s.mem.pixel16 sb j).Premul ∧ (s.mem.pixel16 sa j).CompDst ha)
    (hend : ScanEnds 4096 k (compCheck ha k (s.mem.pixel16 sb k) (s.mem.pixel16 sa k)) o) :
    ∃ m, exec (e.1 ha sa sb) s = .next ((s.withMem m).finish o) ∧
      (∀ j, j < k → m.pixel16 sa j =
        e.2 s.opacity.toNat ha (s.mem.pixel16 sb j) (s.mem.pixel16 sa j)) ∧
      ∀ x, (∀ j, j < k → ¬ inPixel16 sa j x) → m.read x = s.mem.read x := by
  obtain ⟨colour, hresult, hexec⟩ := exec_compModes_rule he
  have hkeeps : KeepsTile (compPixelOf colour) := hresult ▸ compKeepsTileInvariant e he
  obtain ⟨m, hscan, hin, hout⟩ := comp_scan hkeeps hop hpass hend
  refine ⟨m, ?_, hresult ▸ hin, hout⟩
  rw [hexec, composite, State.command_ok _ (slots_two hsa hsb), if_neg (by omega),
    State.overMem_eq hscan]

/-- A mode on tiles that pass every check completes. -/
theorem exec_compMode_completes
    {e : (Bool → Slot → Slot → Instr) × (Nat → Bool → Pixel → Pixel → Pixel)} (he : e ∈ compModes)
    {ha : Bool} {sa sb : Slot} {s : State} (hsa : sa.toNat < 4) (hsb : sb.toNat < 4)
    (hpos : 1 ≤ s.opacity.toNat) (hop : s.opacity.toNat ≤ 32768)
    (hS : s.mem.AllPixels sb Pixel.Premul) (hD : s.mem.AllPixels sa (Pixel.CompDst ha)) :
    ∃ m, exec (e.1 ha sa sb) s = .next { s with mem := m, status := s.status ||| 1#2 } ∧
      (∀ i, i < 4096 → m.pixel16 sa i =
        e.2 s.opacity.toNat ha (s.mem.pixel16 sb i) (s.mem.pixel16 sa i)) ∧
      ∀ x, ¬ inSlot (.t16, sa) x → m.read x = s.mem.read x := by
  obtain ⟨m, hexec, hin, hout⟩ := exec_compMode he hsa hsb hpos hop (k := 4096)
    (fun j hj => ⟨hS j hj, hD j hj⟩) (.inl ⟨rfl, rfl⟩)
  exact ⟨m, hexec, hin, fun x hx => hout x fun j hj h => foot16_inSlot hx j hj (foot16_iff.mpr h)⟩

/-- Settles O32: `COMP.NORMAL` is the first of the sixteen modes. -/
theorem compNormalResult : Obligations.CompNormalResult := by
  unfold Obligations.CompNormalResult
  intro ha sa sb s hsa hsb hpos hop hS hD
  exact exec_compMode_completes (e := (.compNormal, normalResult)) List.mem_cons_self hsa hsb hpos
    hop hS hD

/-- Settles O33: the modes with a blend function are the other fifteen. -/
theorem compBlendResult : Obligations.CompBlendResult := by
  unfold Obligations.CompBlendResult
  intro e he ha sa sb s hsa hsb hpos hop hS hD
  exact exec_compMode_completes (e := (e.1, blendResult e.2))
    (List.mem_cons_of_mem _ (List.mem_map_of_mem he)) hsa hsb hpos hop hS hD

/-- Over a transparent pixel at full opacity the source-over rule leaves the source. -/
theorem normalResult_transparent (S : Pixel) : normalResult 32768 true S ⟨0, 0, 0, 0⟩ = S := by
  simp only [normalResult, Nat.mul_div_cancel _ (show 0 < 32768 by decide), Nat.mul_zero,
    Nat.zero_div, Nat.add_zero, if_true]

/-- So does the three-term rule: the backdrop has no share. -/
theorem blendResult_transparent (B : Rgb → Rgb → Rgb) (S : Pixel) :
    blendResult B 32768 true S ⟨0, 0, 0, 0⟩ = S := by
  simp only [blendResult, Nat.mul_div_cancel _ (show 0 < 32768 by decide), Nat.mul_zero,
    Nat.zero_mul, Nat.zero_div, Nat.add_zero, Nat.sub_zero, if_true]

/-- Settles O36: the command completes, and each pixel's rule leaves the source's pixel. -/
theorem compOverTransparentIsSource : Obligations.CompOverTransparentIsSource := by
  unfold Obligations.CompOverTransparentIsSource
  intro e he sa sb s hsa hsb hopacity hS hD
  have hop : s.opacity.toNat = 32768 := by rw [hopacity]; rfl
  have hdst : s.mem.AllPixels sa (Pixel.CompDst true) := by
    intro i hi
    rw [hD i hi]
    exact ⟨Nat.le_refl 0, Nat.le_refl 0, Nat.le_refl 0, Nat.zero_le _⟩
  obtain ⟨m, hexec, hin, _⟩ :=
    exec_compMode_completes he hsa hsb (by omega) (Nat.le_of_eq hop) hS hdst
  refine ⟨m, hexec, fun i hi => ?_⟩
  rw [hin i hi, hop, hD i hi]
  rcases List.mem_cons.mp he with rfl | hblend
  · exact normalResult_transparent _
  · obtain ⟨b, _, rfl⟩ := List.mem_map.mp hblend
    exact blendResult_transparent b.2 _

/-- The source is checked first, the destination only when the source passes (R148, R311). -/
theorem compCheck_eq_some {ha : Bool} {k : Nat} {S D : Pixel} {f : FaultRec}
    (h : S.check .premul .b k = some f ∨
      S.Premul ∧ D.check (if ha = true then .premul else .range3) .a k = some f) :
    compCheck ha k S D = some f := by
  rw [compCheck, compLevel]
  rcases h with h | ⟨hS, h⟩
  · rw [h, Option.some_or]
  · rw [(Pixel.check_eq_none S .premul .b k).mpr hS, Option.none_or]
    exact h

/-- Settles O37: the scan ends at the first failing check with the results before it. -/
theorem compFaultIsPrecise : Obligations.CompFaultIsPrecise := by
  unfold Obligations.CompFaultIsPrecise
  intro e he ha sa sb s k f hsa hsb hpos hop hk hpass hfault
  exact exec_compMode he hsa hsb hpos hop hpass (.inr ⟨f, hk, compCheck_eq_some hfault, rfl⟩)

end Sys2Proof.Machine
end

section
/-! PROOFS. Well-formed masks (30_encoding.md R106): the traversal of 43_dab.md R202 comes through their
runs and skip counts word by word to the end. -/

namespace Sys2Proof.Machine

open Sys2Proof

/-- `mask` holds these words from word `m` on. -/
def WordsAt (mask : Nat → Nat) (m : Nat) (words : List Nat) : Prop :=
  ∀ j, j < words.length → mask (m + j) = words.getD j 0

section words

variable {mask : Nat → Nat}

theorem WordsAt.left {m : Nat} {v w : List Nat} (h : WordsAt mask m (v ++ w)) :
    WordsAt mask m v := by
  intro j hj
  rw [h j (by rw [List.length_append]; omega), List.getD_append _ _ _ _ hj]

theorem WordsAt.right {m : Nat} {v w : List Nat} (h : WordsAt mask m (v ++ w)) :
    WordsAt mask (m + v.length) w := by
  intro j hj
  rw [Nat.add_assoc, h (v.length + j) (by rw [List.length_append]; omega),
    List.getD_append_right _ _ _ _ (by omega), Nat.add_sub_cancel_left]

theorem WordsAt.head {m x : Nat} {w : List Nat} (h : WordsAt mask m (x :: w)) : mask m = x :=
  h 0 (Nat.zero_lt_succ _)

theorem WordsAt.tail {m x : Nat} {w : List Nat} (h : WordsAt mask m (x :: w)) :
    WordsAt mask (m + 1) w :=
  WordsAt.right (v := [x]) h

/-- The traversal comes through a run, visiting a pixel for each of its values. -/
theorem MaskReach.run {m p : Nat} {visits : List (Nat × Nat)} {run : List Nat}
    (h : MaskReach mask m p visits) (hw : WordsAt mask m run) (hv : ∀ v ∈ run, 1 ≤ v ∧ v ≤ 32768)
    (hm : m + run.length ≤ 8192) (hp : p + run.length ≤ 4096) :
    MaskReach mask (m + run.length) (p + run.length) (visits ++ runVisits p run) := by
  induction run generalizing m p visits with
  | nil => rwa [runVisits, List.append_nil]
  | cons v rest ih =>
    rw [List.length_cons] at hm hp ⊢
    obtain ⟨⟨hlo, hhi⟩, hrest⟩ := List.forall_mem_cons.mp hv
    have hword := hw.head
    have hstep := MaskReach.value m p visits h (by omega) (by omega) (by omega) (by omega)
    have hdone := ih hstep hw.tail hrest (by omega) (by omega)
    rw [hword, List.append_assoc] at hdone
    rw [runVisits, show m + (rest.length + 1) = m + 1 + rest.length by omega,
      show p + (rest.length + 1) = p + 1 + rest.length by omega]
    exact hdone

/-- From any word on, the segments and the last run of a mask are walked to its end. -/
theorem MaskReach.segments {m p : Nat} {visits : List (Nat × Nat)}
    {segments : List (List Nat × Nat)} {last : List Nat} (h : MaskReach mask m p visits)
    (hw : WordsAt mask m (segments.flatMap segmentWords ++ (last ++ [0, 0])))
    (hseg : ∀ g ∈ segments, (∀ v ∈ g.1, 1 ≤ v ∧ v ≤ 32768) ∧ 1 ≤ g.2)
    (hlast : ∀ v ∈ last, 1 ≤ v ∧ v ≤ 32768)
    (hspan : p + (segments.map fun g => g.1.length + g.2).sum + last.length ≤ 4096)
    (hlen : m + (segments.flatMap segmentWords ++ (last ++ [0, 0])).length ≤ 8192) :
    MaskEnds mask (visits ++ visitsFrom p segments last) := by
  induction segments generalizing m p visits with
  | nil =>
    rw [List.flatMap_nil, List.nil_append] at hw hlen
    rw [List.map_nil, List.sum_nil] at hspan
    rw [List.length_append] at hlen
    have hend : WordsAt mask (m + last.length) [0, 0] := hw.right
    exact ⟨_, _, h.run hw.left hlast (by omega) (by omega), by simp at hlen; omega, hend.head,
      hend.tail.head⟩
  | cons g rest ih =>
    obtain ⟨run, skip⟩ := g
    obtain ⟨⟨hrun, hskip⟩, hrest⟩ := List.forall_mem_cons.mp hseg
    rw [List.map_cons, List.sum_cons] at hspan
    dsimp only at hspan hrun hskip
    have hwords : List.flatMap segmentWords ((run, skip) :: rest) ++ (last ++ [0, 0]) =
        run ++ (0 :: skip :: (rest.flatMap segmentWords ++ (last ++ [0, 0]))) := by
      simp [segmentWords]
    rw [hwords] at hw hlen
    rw [List.length_append, List.length_cons, List.length_cons] at hlen
    have hafter := h.run hw.left hrun (by omega) (by omega)
    have hsentinel := hw.right.head
    have hcount := hw.right.tail.head
    have hstep := MaskReach.skip _ _ _ hafter (by omega) hsentinel (by omega) (by omega)
    rw [hcount] at hstep
    have hdone := ih hstep hw.right.tail.tail hrest (by omega) (by omega)
    rw [List.append_assoc] at hdone
    exact hdone

end words

/-- Settles O38: the traversal walks the words from word 0 and pixel 0 on. -/
theorem wellFormedMaskVisitsItsRuns : Obligations.WellFormedMaskVisitsItsRuns := by
  unfold Obligations.WellFormedMaskVisitsItsRuns
  rintro t m ⟨hseg, hlast, hspan, hlen⟩ hmask
  have hwords : WordsAt m.mask 0 t.words := fun j hj => by rw [Nat.zero_add]; exact hmask j hj
  exact MaskReach.start.segments hwords hseg hlast (by rw [Nat.zero_add]; exact hspan)
    (by rw [Nat.zero_add]; exact hlen)

end Sys2Proof.Machine
end

section
/-! PROOFS. The dab renderer (43_dab.md R202 to R215): the three paint commands as one rule, what a
traversal leaves in the pixels it visits, and the faults that end it. -/

namespace Sys2Proof.Machine

open Sys2Proof

/-! ### The paint rules in numbers -/

/-- A painted colour is at most the painted alpha (R210, R211): the colour is at most 1.0 and the old
colour at most the old alpha. -/
theorem paint_channel_le {oa ob col d da : Nat} (hcol : col ≤ 32768) (hd : d ≤ da) :
    (oa * col + ob * d) / 32768 ≤ oa + ob * da / 32768 := by
  have hpaint : oa * col ≤ oa * 32768 := Nat.mul_le_mul_left oa hcol
  have hold : ob * d ≤ ob * da := Nat.mul_le_mul_left ob hd
  omega

/-- The paint's share and the destination's share are together at most 1.0. -/
theorem paintResult_premul {oa ob : Nat} {col : Rgb} {D : Pixel} (hshares : oa + ob ≤ 32768)
    (hcol : col.InRange) (hD : D.Premul) : (paintResult oa ob col D).Premul := by
  obtain ⟨hr, hg, hb, ha⟩ := hD
  obtain ⟨hcr, hcg, hcb⟩ := hcol
  have hold : ob * D.a / 32768 ≤ ob := mul_le_left ha
  exact ⟨paint_channel_le hcr hr, paint_channel_le hcg hg, paint_channel_le hcb hb,
    Nat.le_trans (Nat.add_le_add_left hold oa) hshares⟩

/-- With the paint's share scaled by the pixel's alpha the colours stay below that alpha (R212). -/
theorem paintResult_locked_premul {oa : Nat} {col : Rgb} {D : Pixel} (hoa : oa ≤ 32768)
    (hcol : col.InRange) (hD : D.Premul) :
    Pixel.Premul { paintResult (oa * D.a / 32768) (32768 - oa) col D with a := D.a } := by
  obtain ⟨hr, hg, hb, ha⟩ := hD
  obtain ⟨hcr, hcg, hcb⟩ := hcol
  have hshares : oa * D.a / 32768 + (32768 - oa) * D.a / 32768 ≤ D.a := by
    have h := mul_add_mul_compl (a := D.a) hoa
    rw [mul_swap D.a oa, mul_swap D.a, mul_eq, mul_eq] at h
    omega
  exact ⟨Nat.le_trans (paint_channel_le hcr hr) hshares,
    Nat.le_trans (paint_channel_le hcg hg) hshares,
    Nat.le_trans (paint_channel_le hcb hb) hshares, ha⟩

/-! ### The three commands as one -/

/-- The action of the paint command with this store on a visited pixel (R204). -/
def paintProcess (store : Nat → DabIn → Memory → Memory) (s : State) (sa : Slot) :
    Nat → Nat → Memory → Except FaultRec Memory :=
  fun p => paintPixel (store p) s.opacity.toNat s.flatColour sa p

/-- A paint command with its store: it writes the visited pixel only, from what it read there, and in a
state with legal scalars leaves the command's result, premultiplied. -/
structure PaintRule (c : (Slot → Instr) × (State → Nat → Pixel → Pixel)) (sa : Slot) (s : State)
    (store : Nat → DabIn → Memory → Memory) : Prop where
  exec_eq : exec (c.1 sa) s = .next (paint store sa s)
  frame : ∀ p y m x, ¬ foot16 sa p x → (store p y m).read x = m.read x
  congr : ∀ p y m m' x, m.read x = m'.read x → (store p y m).read x = (store p y m').read x
  result : s.ScalarsLegal → ∀ p v m, v ≤ 32768 → (m.pixel16 sa p).Premul →
    (store p (dabIn (m.pixel16 sa p) v s.opacity.toNat s.flatColour) m).pixel16 sa p =
        c.2 s v (m.pixel16 sa p) ∧
      (c.2 s v (m.pixel16 sa p)).Premul

theorem State.ScalarsLegal.flatColour {s : State} (h : s.ScalarsLegal) : s.flatColour.InRange := by
  obtain ⟨_, hr, hg, hb, _⟩ := h
  exact ⟨hr, hg, hb⟩

/-- A colour in range and a premultiplied pixel leave a premultiplied pixel in the cells. -/
theorem pixel16_setPixel16_premul {m : Memory} {s : Slot} {i : Nat} {p q : Pixel} (hpq : p = q)
    (h : q.Premul) : (m.setPixel16 s i p).pixel16 s i = q ∧ q.Premul :=
  ⟨by rw [hpq, Memory.pixel16_setPixel16_range h.range4], h⟩

/-- `DABN`, `DABE` and `DABL` each follow their rule (R210, R211, R212). -/
theorem paintModes_rule {c : (Slot → Instr) × (State → Nat → Pixel → Pixel)} (hc : c ∈ paintModes)
    (sa : Slot) (s : State) : ∃ store, PaintRule c sa s store := by
  have opaA_le (hs : s.ScalarsLegal) {v : Nat} (hv : v ≤ 32768) :
      v * s.opacity.toNat / 32768 ≤ 32768 := Nat.le_trans (mul_le_left hs.1) hv
  simp only [paintModes, List.mem_cons, List.not_mem_nil, or_false] at hc
  rcases hc with rfl | rfl | rfl
  · refine ⟨_, rfl, fun _ _ _ _ hx => Memory.read_setPixel16_frame hx,
      fun _ _ _ _ _ hx => Memory.read_setPixel16_congr _ _ _ hx, fun hs p v m hv hD => ?_⟩
    have hoa := opaA_le hs hv
    exact pixel16_setPixel16_premul rfl (paintResult_premul (by omega) hs.flatColour hD)
  · refine ⟨_, rfl, fun _ _ _ _ hx => Memory.read_setPixel16_frame hx,
      fun _ _ _ _ _ hx => Memory.read_setPixel16_congr _ _ _ hx, fun hs p v m hv hD => ?_⟩
    have hoa := opaA_le hs hv
    have ⟨_, _, _, _, hcolA⟩ := hs
    have hscaled : v * s.opacity.toNat / 32768 * s.colorA.toNat / 32768 ≤
        v * s.opacity.toNat / 32768 := mul_le_left hcolA
    exact pixel16_setPixel16_premul rfl (paintResult_premul (by omega) hs.flatColour hD)
  · refine ⟨_, rfl, fun _ _ _ _ hx => Memory.read_setColour16_frame hx,
      fun _ _ _ _ _ hx => Memory.read_setColour16_congr _ _ _ hx, fun hs p v m hv hD => ?_⟩
    have hpremul := paintResult_locked_premul (opaA_le hs hv) hs.flatColour hD
    obtain ⟨hr, hg, hb, _⟩ := hpremul.range4
    exact ⟨Memory.pixel16_setColour16_range ⟨hr, hg, hb⟩, hpremul⟩

/-! ### Visits and their end -/

/-- A paint command whose slot exists and whose traversal ends in `(m, o)` leaves that memory and ends
so. -/
theorem paint_of_walk {store : Nat → DabIn → Memory → Memory} {sa : Slot} {s : State} {m : Memory}
    {o : Option FaultRec} (hsa : [(MemKind.t16, sa)].all slotLegal = true)
    (hwalk : walkMask s.mem (paintProcess store s sa) s.mem = (m, o)) :
    paint store sa s = (s.withMem m).finish o := by
  have hbody : s.overMem (fun k => walkMask k
      (fun p => paintPixel (store p) s.opacity.toNat s.flatColour sa p) k) = (s.withMem m, o) :=
    State.overMem_eq hwalk
  rw [paint, State.command_ok _ hsa, hbody]

theorem PaintRule.exec_of_walk {c : (Slot → Instr) × (State → Nat → Pixel → Pixel)} {sa : Slot}
    {s : State} {store : Nat → DabIn → Memory → Memory} (R : PaintRule c sa s store)
    (hsa : sa.toNat < 4) {m : Memory} {o : Option FaultRec}
    (hwalk : maskWalk s.mem.mask (paintProcess store s sa) 8192 0 0 s.mem = (m, o)) :
    exec (c.1 sa) s = .next ((s.withMem m).finish o) := by
  rw [R.exec_eq, paint_of_walk (slots_one hsa) ((walkMask_eq s.mem _ s.mem).trans hwalk)]

/-- The visits of a traversal that has come to some word: distinct pixels of the tile, legal
intensities. -/
theorem MaskReach.visits_lt {mask : Nat → Nat} {m p : Nat} {visits : List (Nat × Nat)}
    (h : MaskReach mask m p visits) : ∀ e ∈ visits, e.1 < 4096 ∧ e.2 ≤ 32768 := by
  obtain ⟨_, hp, hvisits, _⟩ := h.bounds
  intro e he
  obtain ⟨hlt, _, hle⟩ := hvisits e he
  exact ⟨by omega, hle⟩

/-- What the visits of a paint command leave when every visited pixel passes its check: each its
result, every other byte as it was (R215 (f), 60_exceptions.md R307). -/
theorem paintModes_visits {c : (Slot → Instr) × (State → Nat → Pixel → Pixel)} (hc : c ∈ paintModes)
    {sa : Slot} {s : State} {m p : Nat} {visits : List (Nat × Nat)}
    (hreach : MaskReach s.mem.mask m p visits)
    (hpremul : s.mem.VisitedPixels sa visits Pixel.Premul) :
    ∃ store m', PaintRule c sa s store ∧
      visitAll (paintProcess store s sa) visits s.mem = .ok m' ∧
      (s.ScalarsLegal → ∀ e ∈ visits, m'.pixel16 sa e.1 = c.2 s e.2 (s.mem.pixel16 sa e.1) ∧
        (m'.pixel16 sa e.1).Premul) ∧
      ∀ x, (∀ e ∈ visits, ¬ inPixel16 sa e.1 x) → m'.read x = s.mem.read x := by
  obtain ⟨store, R⟩ := paintModes_rule hc sa s
  obtain ⟨_, _, _, hdistinct⟩ := hreach.bounds
  have hok (e : Nat × Nat) (he : e ∈ visits) : paintProcess store s sa e.1 e.2 s.mem =
      .ok (store e.1 (dabIn (s.mem.pixel16 sa e.1) e.2 s.opacity.toNat s.flatColour) s.mem) :=
    checked_ok.mpr ⟨(Pixel.check_eq_none _ .premul .a e.1).mpr (hpremul e he), rfl⟩
  obtain ⟨m', hvisit, hin, hout⟩ := visitAll_local (body := paintProcess store s sa)
    (paintPixel_local store s.opacity.toNat s.flatColour sa R.frame R.congr) s.mem visits hdistinct
    (fun e he => (hreach.visits_lt e he).1) fun e he => ⟨_, hok e he⟩
  refine ⟨store, m', R, hvisit, fun hs e he => ?_,
    fun x hx => hout x fun e he => not_inPixel16 (hx e he)⟩
  obtain ⟨hresult, hkeep⟩ := R.result hs e.1 e.2 s.mem (hreach.visits_lt e he).2 (hpremul e he)
  rw [Memory.pixel16_eq fun x hx => hin e he _ x (hok e he) hx, hresult]
  exact ⟨rfl, hkeep⟩

/-- A paint command completes on a mask that ends. -/
theorem exec_paintMode_completes {c : (Slot → Instr) × (State → Nat → Pixel → Pixel)}
    (hc : c ∈ paintModes) {sa : Slot} {s : State} {visits : List (Nat × Nat)} (hsa : sa.toNat < 4)
    (hs : s.ScalarsLegal) (hends : MaskEnds s.mem.mask visits)
    (hpremul : s.mem.VisitedPixels sa visits Pixel.Premul) :
    ∃ m, exec (c.1 sa) s = .next { s with mem := m, status := s.status ||| 1#2 } ∧
      (∀ e ∈ visits, m.pixel16 sa e.1 = c.2 s e.2 (s.mem.pixel16 sa e.1) ∧
        (m.pixel16 sa e.1).Premul) ∧
      ∀ x, (∀ e ∈ visits, ¬ inPixel16 sa e.1 x) → m.read x = s.mem.read x := by
  have ⟨_, _, hreach, _⟩ := hends
  obtain ⟨store, m', R, hvisit, hin, hout⟩ := paintModes_visits hc hreach hpremul
  exact ⟨m', R.exec_of_walk hsa (hends.walk hvisit), hin hs, hout⟩

/-- Settles O39: `DABN` is the first of the three paint commands. -/
theorem dabnResult : Obligations.DabnResult := by
  unfold Obligations.DabnResult
  intro sa s visits
  exact exec_paintMode_completes (c := paintModes[0]) (List.getElem_mem _)

/-- Settles O40: `DABE` is the second. -/
theorem dabeResult : Obligations.DabeResult := by
  unfold Obligations.DabeResult
  intro sa s visits
  exact exec_paintMode_completes (c := paintModes[1]) (List.getElem_mem _)

/-- Settles O41: `DABL` is the third. -/
theorem dablResult : Obligations.DablResult := by
  unfold Obligations.DablResult
  intro sa s visits
  exact exec_paintMode_completes (c := paintModes[2]) (List.getElem_mem _)

/-! ### The faults -/

/-- The five mask faults (R202, R203): at word `m` with the cursor on pixel `p` the mask goes no
further, with this code at this word. -/
def MaskStops (mask : Nat → Nat) (m p code idx : Nat) : Prop :=
  m = 8192 ∧ code = 9 ∧ idx = 8192 ∨
  m < 8192 ∧ mask m > 32768 ∧ code = 7 ∧ idx = m ∨
  m < 8192 ∧ 1 ≤ mask m ∧ mask m ≤ 32768 ∧ p = 4096 ∧ code = 8 ∧ idx = m ∨
  m = 8191 ∧ mask m = 0 ∧ code = 9 ∧ idx = 8192 ∨
  m < 8191 ∧ mask m = 0 ∧ 1 ≤ mask (m + 1) ∧ p + mask (m + 1) > 4096 ∧ code = 8 ∧ idx = m + 1

/-- There the traversal ends in the mask fault of that code. -/
theorem MaskStops.walk {σ : Type} {mask : Nat → Nat} {m p code idx : Nat}
    (h : MaskStops mask m p code idx) (process : Nat → Nat → σ → Except FaultRec σ) (x : σ) :
    ∃ c : Cause, c.code = code ∧ idx ≤ 8192 ∧
      maskWalk mask process (8192 - m) m p x = (x, some (maskFault c idx)) := by
  rcases h with ⟨rfl, rfl, rfl⟩ | ⟨hm, hbig, rfl, rfl⟩ | ⟨hm, h0, h1, rfl, rfl, rfl⟩ |
    ⟨rfl, h0, rfl, rfl⟩ | ⟨hm, h0, h1, hbig, rfl, rfl⟩
  · exact ⟨.maskOverrun, rfl, Nat.le_refl _, rfl⟩
  · refine ⟨.maskValue, rfl, by omega, ?_⟩
    rw [show 8192 - idx = 8191 - idx + 1 by omega, maskWalk.eq_def]
    simp only [if_neg (show ¬ mask idx = 0 by omega),
      if_pos (show mask idx > Config.one from hbig)]
  · refine ⟨.maskRange, rfl, by omega, ?_⟩
    rw [show 8192 - idx = 8191 - idx + 1 by omega, maskWalk.eq_def]
    simp only [if_neg (show ¬ mask idx = 0 by omega),
      if_neg (show ¬ mask idx > Config.one from Nat.not_lt.mpr h1),
      if_pos (show 4096 ≥ Config.npix from Nat.le_refl _)]
  · refine ⟨.maskOverrun, rfl, Nat.le_refl _, ?_⟩
    rw [show 8192 - 8191 = 0 + 1 from rfl, maskWalk.eq_def]
    simp only [if_pos h0]
  · refine ⟨.maskRange, rfl, by omega, ?_⟩
    rw [show 8192 - m = 8190 - m + 2 by omega, maskWalk_sentinel h0,
      if_neg (show ¬ mask (m + 1) = 0 by omega), if_pos hbig]

/-- The `ERR_INFO` of a mask fault: the word at bit 0, `OPND` 3 at bit 20 (10_state.md R29). -/
theorem maskFault_info {c : Cause} {idx : Nat} (h : idx ≤ 8192) :
    (maskFault c idx).info = BitVec.ofNat 22 (idx + 3 * 2 ^ 20) := by
  apply BitVec.eq_of_toNat_eq
  have hinfo := FaultRec.info_toNat (f := maskFault c idx) (show idx < 2 ^ 16 by omega)
    (show 0 < 4 by decide) (show 3 < 4 by decide)
  rw [hinfo, BitVec.toNat_ofNat, Nat.mod_eq_of_lt (by omega)]
  show idx + 0 * 2 ^ 16 + 3 * 2 ^ 20 = _
  omega

/-- A `DABACC` whose traversal faults changes nothing but the fault registers (R214). -/
theorem exec_dabacc_of_walk {sa : Slot} {s : State} {x : Sums} {f : FaultRec} (hsa : sa.toNat < 4)
    (hwalk : maskWalk s.mem.mask (sumPixel s.mem sa) 8192 0 0 ⟨0, 0, 0, 0, 0⟩ = (x, some f)) :
    exec (.dabacc sa) s = .next (s.raise f) := by
  have hacc : accumulate sa s = (s, some f) := by rw [accumulate, walkMask_eq, hwalk]
  rw [exec_dabacc, State.command_faults (slots_one hsa) hacc]

/-- Settles O43: the traversal comes to the word with its visits done, and stops there. -/
theorem maskFaults : Obligations.MaskFaults := by
  unfold Obligations.MaskFaults
  intro sa s m p visits code idx hsa hreach hstop
  refine ⟨fun c hc hpremul => ?_, fun hrange => ?_⟩
  · obtain ⟨store, m', R, hvisit, hin, hout⟩ := paintModes_visits hc hreach hpremul
    obtain ⟨cause, rfl, hidx, hwalk⟩ := MaskStops.walk hstop (paintProcess store s sa) m'
    refine ⟨m', ?_, fun hs e he => (hin hs e he).1, hout⟩
    rw [R.exec_of_walk hsa ((hreach.walk hvisit).trans hwalk), ← maskFault_info (c := cause) hidx]
    rfl
  · have hvisit : visitAll (sumPixel s.mem sa) visits ⟨0, 0, 0, 0, 0⟩ =
        .ok (dabaccSums s.mem sa visits) := visitAll_sumPixel_ok.mpr ⟨hrange, rfl⟩
    obtain ⟨cause, rfl, hidx, hwalk⟩ := MaskStops.walk hstop (sumPixel s.mem sa) _
    rw [exec_dabacc_of_walk hsa ((hreach.walk hvisit).trans hwalk),
      ← maskFault_info (c := cause) hidx]
    rfl

/-- Settles O44: the visit after those that passed fails its check, on a pixel no visit has changed. -/
theorem dabPixelFaults : Obligations.DabPixelFaults := by
  unfold Obligations.DabPixelFaults
  intro sa s m p visits f hsa hreach hm h0 h1 hp
  refine ⟨fun c hc hpremul hcheck => ?_, fun hrange hcheck => ?_⟩
  · obtain ⟨store, m', R, hvisit, hin, hout⟩ := paintModes_visits hc hreach hpremul
    obtain ⟨_, _, hbefore, _⟩ := hreach.bounds
    have hpixel : m'.pixel16 sa p = s.mem.pixel16 sa p := Memory.pixel16_eq fun x hx =>
      hout x fun e he hx' =>
        Nat.ne_of_lt (hbefore e he).1 (foot16_apart (foot16_iff.mpr hx') hx)
    have hfault : paintProcess store s sa p (s.mem.mask m) m' = .error f := by
      rw [paintProcess, paintPixel, checked_error, hpixel, hcheck]
    exact ⟨m', R.exec_of_walk hsa (hreach.walk_fault hvisit hm h0 h1 hp hfault),
      fun hs e he => (hin hs e he).1, hout⟩
  · have hvisit : visitAll (sumPixel s.mem sa) visits ⟨0, 0, 0, 0, 0⟩ =
        .ok (dabaccSums s.mem sa visits) := visitAll_sumPixel_ok.mpr ⟨hrange, rfl⟩
    exact exec_dabacc_of_walk hsa
      (hreach.walk_fault hvisit hm h0 h1 hp (checked_error.mpr hcheck))

/-! ### `DABE` at full alpha, and `DABL`'s alpha -/

/-- Settles O45: the paint's share scaled by 1.0 is the share itself, so the two stores are one. -/
theorem dabeAtFullAlphaIsDabn : Obligations.DabeAtFullAlphaIsDabn := by
  unfold Obligations.DabeAtFullAlphaIsDabn
  intro sa s hcolA
  have hone : s.colorA.toNat = 32768 := by rw [hcolA]; rfl
  show execDabe sa s = execDabn sa s
  simp only [execDabe, execDabn, hone, mul_right_one]

/-- What every store of a paint command keeps, the command keeps. -/
theorem paint_keeps (P : Memory → Prop) {store : Nat → DabIn → Memory → Memory} {sa : Slot}
    {s : State} (h : P s.mem) (hstore : ∀ p x m, p < 4096 → P m → P (store p x m)) :
    P (paint store sa s).mem := by
  have hkeep : P (walkMask s.mem (paintProcess store s sa) s.mem).1 := by
    refine maskWalk_keeps P (fun p v m m' hp _ _ hm hok => ?_) _ _ _ _ h
    obtain ⟨_, rfl⟩ := checked_ok.mp hok
    exact hstore p _ m hp hm
  cases hbad : badSlotFrom 0 [(.t16, sa)] with
  | some f =>
    rw [paint, State.command_bad _ hbad]
    exact h
  | none =>
    rcases hwalk : walkMask s.mem (paintProcess store s sa) s.mem with ⟨m, o⟩
    rw [hwalk] at hkeep
    rw [paint_of_walk ((badSlotFrom_eq_none 0 _).mp hbad) hwalk]
    cases o <;> exact hkeep

/-- A colour store writes no alpha cell of any pixel of a working slot. -/
theorem alpha_setColour16 (m : Memory) (sa : Slot) (p : Nat) (c : Rgb) (slot : Slot) (i : Nat) :
    ((m.setColour16 sa p c).pixel16 slot i).a = (m.pixel16 slot i).a := by
  have hbyte (k : Nat) (hk : k < 2) : (m.setColour16 sa p c).read (t16Addr slot i 3 + k) =
      m.read (t16Addr slot i 3 + k) :=
    Memory.read_setColour16_other _ _ _ _ _ (by rw [t16Addr_eq, t16Addr_eq]; omega)
  exact Memory.read16_congr (hbyte 0 (by decide)) (hbyte 1 (by decide))

/-- Settles O46: the command's only stores are colour stores. -/
theorem dablNeverChangesAlpha : Obligations.DablNeverChangesAlpha := by
  unfold Obligations.DablNeverChangesAlpha
  intro sa s
  refine ⟨_, rfl, ?_⟩
  refine paint_keeps (fun m => ∀ (slot : Slot) (i : Nat), slot.toNat < 4 → i < 4096 →
    (m.pixel16 slot i).a = (s.mem.pixel16 slot i).a) (fun _ _ _ _ => rfl)
    fun p x m hp hm slot i hslot hi => ?_
  rw [alpha_setColour16, hm slot i hslot hi]

end Sys2Proof.Machine
end

section
/-! PROOFS. The bit-depth converters, copies and clears (44_convert.md): what each scan leaves up to
where it ends, and the round trip of a pixel and of a tile (R238). -/

namespace Sys2Proof.Machine

open Sys2Proof

/-! ### Commands that scan a tile -/

/-- A command whose data phase is a tile scan ends as the scan does. -/
theorem command_of_scan {s : State} {slots : List (MemKind × Slot)}
    {body : State → Nat → Memory → Except FaultRec Memory} {m : Memory} {o : Option FaultRec}
    (hslots : slots.all slotLegal = true) (hscan : scanTile (body s) s.mem = (m, o)) :
    s.command slots (fun t => t.overMem (scanTile (body t))) = (s.withMem m).finish o := by
  rw [State.command_ok _ hslots, State.overMem_eq hscan]

theorem foot16_of_inPixel16 {s : Slot} {k x : Nat} (h : ∀ j, j < k → ¬ inPixel16 s j x) :
    ∀ j, j < k → ¬ foot16 s j x := fun j hj => not_inPixel16 (h j hj)

/-- A pixel whose channels are bytes fits the cells it is stored in. -/
theorem Memory.pixel8_setPixel8_range {m : Memory} {s : Slot} {i : Nat} {p : Pixel}
    (h : p.r ≤ 255 ∧ p.g ≤ 255 ∧ p.b ≤ 255 ∧ p.a ≤ 255) :
    (m.setPixel8 s i p).pixel8 s i = p := by
  obtain ⟨hr, hg, hb, ha⟩ := h
  exact Memory.pixel8_setPixel8 m s i p (by omega) (by omega) (by omega) (by omega)

/-! ### The converters in numbers -/

/-- A noise sample of the table is its cell (10_state.md R44). -/
theorem noiseAt_eq (noise : List Half) {k : Nat} (hk : k < 8192) :
    noiseAt noise k = (noise.getD k 0).toNat := by
  have hlen : Config.noiseLen = 8192 := rfl
  rw [noiseAt, hlen, Nat.mod_eq_of_lt hk]

/-- Every sample of a table in its band lies in the band (R47). -/
theorem noiseOk.band {noise : List Half} (h : noiseOk noise) {k : Nat} (hk : k < 8192) :
    984 ≤ (noise.getD k 0).toNat ∧ (noise.getD k 0).toNat ≤ 31784 := by
  obtain ⟨hlen, hband⟩ := h
  have hlt : k < noise.length := by rw [hlen]; exact hk
  rw [List.getD_eq_getElem _ _ hlt]
  exact hband _ (List.getElem_mem hlt)

/-- Dithering a value in range gives a byte (40_fixed_point.md R128). -/
theorem dither_le {v n : Nat} (hv : v ≤ 32768) (hn : n ≤ 31784) : (v * 255 + n) / 32768 ≤ 255 := by
  omega

theorem straightRound_le {c a : Nat} (h : c ≤ a) : straightRound c a ≤ 32768 := by
  unfold straightRound
  split
  · exact Nat.zero_le _
  · refine Nat.le_of_lt_succ ((Nat.div_lt_iff_lt_mul (by omega)).mpr ?_)
    have hca : c * 32768 ≤ a * 32768 := Nat.mul_le_mul_right 32768 h
    omega

theorem storageResult_le {nc na : Nat} {p : Pixel} (hp : p.Premul) (hnc : nc ≤ 31784)
    (hna : na ≤ 31784) :
    (storageResult nc na p).r ≤ 255 ∧ (storageResult nc na p).g ≤ 255 ∧
      (storageResult nc na p).b ≤ 255 ∧ (storageResult nc na p).a ≤ 255 := by
  obtain ⟨hr, hg, hb, ha⟩ := hp
  exact ⟨dither_le (straightRound_le hr) hnc, dither_le (straightRound_le hg) hnc,
    dither_le (straightRound_le hb) hnc, dither_le ha hna⟩

theorem displayResult_le {n : Nat} {p : Pixel} (hp : p.Range3) (hn : n ≤ 31784) :
    (displayResult n p).r ≤ 255 ∧ (displayResult n p).g ≤ 255 ∧ (displayResult n p).b ≤ 255 ∧
      (displayResult n p).a ≤ 255 := by
  obtain ⟨hr, hg, hb⟩ := hp
  exact ⟨dither_le hr hn, dither_le hg hn, dither_le hb hn, Nat.le_refl 255⟩

theorem byteToFix_le {v : Nat} (h : v ≤ 255) : byteToFix v ≤ 32768 := by
  unfold byteToFix
  omega

/-- A premultiplied product of a channel in range is at most its alpha (R235). -/
theorem premulRound_le {c a : Nat} (h : c ≤ 32768) : (c * a + 16384) / 32768 ≤ a := by
  have hca : c * a ≤ 32768 * a := Nat.mul_le_mul_right a h
  omega

theorem workingResult_premul {p : Pixel} (h : p.r ≤ 255 ∧ p.g ≤ 255 ∧ p.b ≤ 255 ∧ p.a ≤ 255) :
    (workingResult p).Premul := by
  obtain ⟨hr, hg, hb, ha⟩ := h
  exact ⟨premulRound_le (byteToFix_le hr), premulRound_le (byteToFix_le hg),
    premulRound_le (byteToFix_le hb), byteToFix_le ha⟩

theorem Memory.pixel8_le (m : Memory) (s : Slot) (i : Nat) :
    (m.pixel8 s i).r ≤ 255 ∧ (m.pixel8 s i).g ≤ 255 ∧ (m.pixel8 s i).b ≤ 255 ∧
      (m.pixel8 s i).a ≤ 255 :=
  ⟨Nat.le_of_lt_succ (m.t8_lt s i 0), Nat.le_of_lt_succ (m.t8_lt s i 1),
    Nat.le_of_lt_succ (m.t8_lt s i 2), Nat.le_of_lt_succ (m.t8_lt s i 3)⟩

/-! ### The commands up to where they end -/

/-- `CV16TO8` up to pixel `k` (R232, R233). -/
theorem exec_cv16to8 {sa sb : Slot} {s : State} {k : Nat} {o : Option FaultRec} (hsa : sa.toNat < 2)
    (hsb : sb.toNat < 4) (hk : k ≤ 4096) (hnoise : noiseOk s.noise)
    (hpass : ∀ j, j < k → (s.mem.pixel16 sb j).Premul)
    (hend : ScanEnds 4096 k ((s.mem.pixel16 sb k).check .premul .b k) o) :
    ∃ m, exec (.cv16to8 sa sb) s = .next ((s.withMem m).finish o) ∧
      (∀ j, j < k → m.pixel8 sa j =
        storageResult (s.noise.getD (2 * j) 0).toNat (s.noise.getD (2 * j + 1) 0).toNat
          (s.mem.pixel16 sb j)) ∧
      ∀ x, (∀ j, j < k → ¬ foot8 sa j x) → m.read x = s.mem.read x := by
  obtain ⟨m, hscan, hin, hout⟩ := (cv16to8Pixel_local s.noise sa sb).scanTile_until
    (fun j hj => (Pixel.check_eq_none _ .premul .b j).mpr (hpass j hj)) hend
  refine ⟨m, congrArg Host.Outcome.next (command_of_scan (slots_two hsa hsb) hscan),
    fun j hj => ?_, hout⟩
  obtain ⟨_, hnc⟩ := hnoise.band (k := 2 * j) (by omega)
  obtain ⟨_, hna⟩ := hnoise.band (k := 2 * j + 1) (by omega)
  rw [Memory.pixel8_eq fun x hx => hin j x hj hx, noiseAt_eq _ (by omega), noiseAt_eq _ (by omega)]
  exact Memory.pixel8_setPixel8_range (storageResult_le (hpass j hj) hnc hna)

/-- `CV16TO8X` up to pixel `k` (R232, R234). -/
theorem exec_cv16to8x {sa sb : Slot} {s : State} {k : Nat} {o : Option FaultRec}
    (hsa : sa.toNat < 2) (hsb : sb.toNat < 4) (hk : k ≤ 4096) (hnoise : noiseOk s.noise)
    (hpass : ∀ j, j < k → (s.mem.pixel16 sb j).Range3)
    (hend : ScanEnds 4096 k ((s.mem.pixel16 sb k).check .range3 .b k) o) :
    ∃ m, exec (.cv16to8x sa sb) s = .next ((s.withMem m).finish o) ∧
      (∀ j, j < k → m.pixel8 sa j =
        displayResult (s.noise.getD j 0).toNat (s.mem.pixel16 sb j)) ∧
      ∀ x, (∀ j, j < k → ¬ foot8 sa j x) → m.read x = s.mem.read x := by
  obtain ⟨m, hscan, hin, hout⟩ := (cv16to8xPixel_local s.noise sa sb).scanTile_until
    (fun j hj => (Pixel.check_eq_none _ .range3 .b j).mpr (hpass j hj)) hend
  refine ⟨m, congrArg Host.Outcome.next (command_of_scan (slots_two hsa hsb) hscan),
    fun j hj => ?_, hout⟩
  obtain ⟨_, hn⟩ := hnoise.band (k := j) (by omega)
  rw [Memory.pixel8_eq fun x hx => hin j x hj hx, noiseAt_eq _ (by omega)]
  exact Memory.pixel8_setPixel8_range (displayResult_le (hpass j hj) hn)

/-- A command without checks stores at every pixel and completes. -/
theorem exec_unchecked {foot : Nat → Nat → Prop} {store : Nat → Memory → Memory}
    (L : PixelLocal 4096 foot fun i m => .ok (store i m)) {s : State}
    {slots : List (MemKind × Slot)} (hslots : slots.all slotLegal = true) :
    ∃ m, s.command slots (fun t => t.overMem (scanTile fun i m => .ok (store i m))) =
        { s with mem := m, status := s.status ||| 1#2 } ∧
      (∀ i x, i < 4096 → foot i x → m.read x = (store i s.mem).read x) ∧
      ∀ x, (∀ i, i < 4096 → ¬ foot i x) → m.read x = s.mem.read x := by
  obtain ⟨m, hscan, hin, hout⟩ := L.completes s.mem fun j _ => ⟨_, rfl⟩
  rw [← scanTile_eq] at hscan
  exact ⟨m, command_of_scan (body := fun _ i m => .ok (store i m)) hslots hscan,
    fun i x hi hx => hin i _ x hi rfl hx, hout⟩

/-- Settles O47: the scan ends past the last pixel. -/
theorem cv16to8Result : Obligations.Cv16to8Result := by
  unfold Obligations.Cv16to8Result
  intro sa sb s hsa hsb hnoise hpass
  obtain ⟨m, hexec, hin, hout⟩ :=
    exec_cv16to8 hsa hsb (Nat.le_refl _) hnoise hpass (.inl ⟨rfl, rfl⟩)
  exact ⟨m, hexec, hin, fun x hx => hout x (foot8_inSlot hx)⟩

/-- Settles O48: the scan ends past the last pixel. -/
theorem cv16to8xResult : Obligations.Cv16to8xResult := by
  unfold Obligations.Cv16to8xResult
  intro sa sb s hsa hsb hnoise hpass
  obtain ⟨m, hexec, hin, hout⟩ :=
    exec_cv16to8x hsa hsb (Nat.le_refl _) hnoise hpass (.inl ⟨rfl, rfl⟩)
  exact ⟨m, hexec, hin, fun x hx => hout x (foot8_inSlot hx)⟩

/-- Settles O49: the pixels read are bytes, so the ones written are premultiplied and fit. -/
theorem cv8to16Result : Obligations.Cv8to16Result := by
  unfold Obligations.Cv8to16Result
  intro sa sb s hsa hsb
  obtain ⟨m, hexec, hin, hout⟩ :=
    exec_unchecked (cv8to16Pixel_local sa sb) (s := s)
      (slots_two (k := .t16) (l := .t8) hsa hsb)
  refine ⟨m, congrArg Host.Outcome.next hexec, fun i hi => ?_, fun x hx => hout x (foot16_inSlot hx)⟩
  have hpremul := workingResult_premul (s.mem.pixel8_le sb i)
  have hpixel : m.pixel16 sa i = workingResult (s.mem.pixel8 sb i) := by
    rw [Memory.pixel16_eq fun x hx => hin i x hi hx]
    exact Memory.pixel16_setPixel16_range hpremul.range4
  rw [hpixel]
  exact ⟨rfl, hpremul⟩

theorem Memory.pixel16_setPixel16_copy (m : Memory) (s d : Slot) (i j : Nat) :
    (m.setPixel16 d i (m.pixel16 s j)).pixel16 d i = m.pixel16 s j :=
  Memory.pixel16_setPixel16 m d i _ (m.t16_lt s j 0) (m.t16_lt s j 1) (m.t16_lt s j 2)
    (m.t16_lt s j 3)

/-- Settles O52: what is stored fits its cells, copied or zero. -/
theorem copyAndClearResult : Obligations.CopyAndClearResult := by
  unfold Obligations.CopyAndClearResult
  intro sa sb s
  refine ⟨fun hsa hsb => ?_, fun hsa hsb => ?_, fun hsa => ?_, fun hsa => ?_⟩
  · obtain ⟨m, hexec, hin, hout⟩ :=
      exec_unchecked (copy16_local sa sb) (s := s) (slots_two (k := .t16) (l := .t16) hsa hsb)
    refine ⟨m, congrArg Host.Outcome.next hexec, fun i hi => ?_,
      fun x hx => hout x (foot16_inSlot hx)⟩
    rw [Memory.pixel16_eq fun x hx => hin i x hi hx, Memory.pixel16_setPixel16_copy]
  · obtain ⟨m, hexec, hin, hout⟩ :=
      exec_unchecked (copy8_local sa sb) (s := s) (slots_two (k := .t8) (l := .t8) hsa hsb)
    refine ⟨m, congrArg Host.Outcome.next hexec, fun i hi => ?_,
      fun x hx => hout x (foot8_inSlot hx)⟩
    rw [Memory.pixel8_eq fun x hx => hin i x hi hx,
      Memory.pixel8_setPixel8_range (s.mem.pixel8_le sb i)]
  · obtain ⟨m, hexec, hin, hout⟩ :=
      exec_unchecked (clear16_local sa) (s := s) (slots_one (k := .t16) hsa)
    refine ⟨m, congrArg Host.Outcome.next hexec, fun i hi => ?_,
      fun x hx => hout x (foot16_inSlot hx)⟩
    rw [Memory.pixel16_eq fun x hx => hin i x hi hx]
    exact Memory.pixel16_setPixel16 _ _ _ _ (by decide) (by decide) (by decide) (by decide)
  · obtain ⟨m, hexec, hin, hout⟩ :=
      exec_unchecked (clear8_local sa) (s := s) (slots_one (k := .t8) hsa)
    refine ⟨m, congrArg Host.Outcome.next hexec, fun i hi => ?_,
      fun x hx => hout x (foot8_inSlot hx)⟩
    rw [Memory.pixel8_eq fun x hx => hin i x hi hx]
    exact Memory.pixel8_setPixel8 _ _ _ _ (by decide) (by decide) (by decide) (by decide)

/-! ### The round trip -/

/-- Scaling a byte up is exact to half a unit of 255ths (R235). -/
theorem scaleUp_near (v : Nat) :
    32768 * v ≤ 255 * scaleUp v + 127 ∧ 255 * scaleUp v ≤ 32768 * v + 127 := by
  unfold scaleUp
  omega

/-- Premultiplying and dividing by alpha again loses less than `d + 1` units, where alpha is large
enough for the two roundings. -/
theorem unpremulRound_premulRound {c a d : Nat} (ha : 0 < a) (hd : 16384 + a / 2 < (d + 1) * a) :
    unpremulRound (premulRound c a) a ≤ c + d ∧ c ≤ unpremulRound (premulRound c a) a + d := by
  have hpre := Nat.mul_div_le (c * a + 16384) 32768
  have hpre' := Nat.lt_mul_div_succ (c * a + 16384) (show 0 < 32768 by decide)
  rw [unpremulRound, if_neg (Nat.ne_of_gt ha), premulRound, show 2 ^ 15 = 32768 from rfl]
  generalize (c * a + 16384) / 32768 = q at *
  have hun := Nat.mul_div_le (q * 32768 + a / 2) a
  have hun' := Nat.lt_mul_div_succ (q * 32768 + a / 2) ha
  generalize (q * 32768 + a / 2) / a = u at *
  have hhalf : a ≤ 2 * (a / 2) + 1 := by omega
  constructor
  · refine Nat.lt_add_one_iff.mp (Nat.lt_of_mul_lt_mul_left (a := a) ?_)
    linarith only [hd, hpre, hun]
  · refine Nat.lt_add_one_iff.mp (Nat.lt_of_mul_lt_mul_left (a := a) ?_)
    linarith only [hd, hpre', hun', hhalf]

/-- A value within 984 of a byte's 32768ths dithers to the byte, for any sample in the band. -/
theorem dither_eq {u v n : Nat} (hlo : 32768 * v ≤ 255 * u + 984) (hhi : 255 * u < 32768 * v + 984)
    (hn : 984 ≤ n) (hn' : n ≤ 31784) : dither u n = v := by
  unfold dither
  omega

/-- One channel of the round trip, from alpha 37 on exact: there the roundings lose at most three
units, which the dither absorbs. -/
theorem roundTrip_channel {c a n : Nat} (ha : 37 ≤ a) (hn : 984 ≤ n) (hn' : n ≤ 31784) :
    dither (unpremulRound (premulRound (scaleUp c) (scaleUp a)) (scaleUp a)) n = c := by
  obtain ⟨hclo, hchi⟩ := scaleUp_near c
  obtain ⟨halo, _⟩ := scaleUp_near a
  obtain ⟨hle, hge⟩ := unpremulRound_premulRound (c := scaleUp c) (a := scaleUp a) (d := 3)
    (by omega) (by omega)
  exact dither_eq (by omega) (by omega) hn hn'

/-- From alpha 1 on it is within one unit. -/
theorem roundTrip_channel_near {c a n : Nat} (ha : 1 ≤ a) (hn : 984 ≤ n) (hn' : n ≤ 31784) :
    absDiff (dither (unpremulRound (premulRound (scaleUp c) (scaleUp a)) (scaleUp a)) n) c ≤ 1 := by
  obtain ⟨hclo, hchi⟩ := scaleUp_near c
  have hA : 129 ≤ scaleUp a := by unfold scaleUp; omega
  obtain ⟨hle, hge⟩ := unpremulRound_premulRound (c := scaleUp c) (a := scaleUp a) (d := 127)
    (by omega) (by omega)
  unfold dither absDiff
  omega

theorem roundTrip_alpha {a n : Nat} (hn : 984 ≤ n) (hn' : n ≤ 31784) : dither (scaleUp a) n = a := by
  obtain ⟨hlo, hhi⟩ := scaleUp_near a
  exact dither_eq (by omega) (by omega) hn hn'

/-- Settles O50: channel by channel, by the size of alpha. -/
theorem roundTripLaw : Obligations.RoundTripLaw := by
  unfold Obligations.RoundTripLaw
  intro P nc na _ _ _ _ hnc hnc' hna hna' P'
  have halpha : P'.a = P.a := roundTrip_alpha hna hna'
  refine ⟨halpha, fun h => ?_, fun h _ => ⟨roundTrip_channel_near h hnc hnc',
    roundTrip_channel_near h hnc hnc', roundTrip_channel_near h hnc hnc'⟩, fun h => ?_⟩
  · have hr : P'.r = P.r := roundTrip_channel h hnc hnc'
    have hg : P'.g = P.g := roundTrip_channel h hnc hnc'
    have hb : P'.b = P.b := roundTrip_channel h hnc hnc'
    show Pixel.mk P'.r P'.g P'.b P'.a = P
    rw [hr, hg, hb, halpha]
  · have hzero (c : Nat) :
        dither (unpremulRound (premulRound c (scaleUp P.a)) (scaleUp P.a)) nc = 0 := by
      have hA : scaleUp P.a = 0 := by rw [h]; rfl
      rw [hA, unpremulRound, if_pos rfl, dither, Nat.zero_mul, Nat.zero_add]
      exact Nat.div_eq_of_lt (by omega)
    show Pixel.mk _ _ _ P'.a = _
    rw [halpha, h]
    exact congr (congr (congr (congrArg Pixel.mk (hzero _)) (hzero _)) (hzero _)) rfl

/-- Settles O51: the first command's tile is premultiplied, so the second completes on it, and each
pixel makes the round trip of `roundTripLaw`. -/
theorem roundTripTile : Obligations.RoundTripTile := by
  unfold Obligations.RoundTripTile
  intro t b b' s ht hb hb' hnoise
  obtain ⟨m1, hexec1, hin1, _⟩ := cv8to16Result t b s ht hb
  obtain ⟨m2, hexec2, hin2, _⟩ := cv16to8Result b' t
    { s with mem := m1, status := s.status ||| 1#2 } hb' ht hnoise fun i hi => (hin1 i hi).2
  refine ⟨_, _, hexec1, hexec2, ?_, fun i hi ha => ?_⟩
  · exact (BitVec.or_assoc _ _ _).trans (congrArg (s.status ||| ·) (BitVec.or_self))
  · obtain ⟨hnc, hnc'⟩ := hnoise.band (k := 2 * i) (by omega)
    obtain ⟨hna, hna'⟩ := hnoise.band (k := 2 * i + 1) (by omega)
    obtain ⟨hr, hg, hbl, hal⟩ := s.mem.pixel8_le b i
    refine (hin2 i hi).trans ?_
    rw [(hin1 i hi).1]
    exact (roundTripLaw (s.mem.pixel8 b i) _ _ hr hg hbl hal hnc hnc' hna hna').2.1 ha

end Sys2Proof.Machine
end

section
/-! PROOFS. Flatten and unflatten (45_flatten.md): the two pixel rules in numbers, the commands up to
where their scans end, and what each undoes of the other (R263, R264). -/

namespace Sys2Proof.Machine

open Sys2Proof

/-! ### The required alpha -/

/-- A quotient rounded up is at most `q` where `q` times the divisor reaches the dividend (R122). -/
theorem ceil_le_iff {n b q : Nat} (hb : 0 < b) : (n + (b - 1)) / b ≤ q ↔ n ≤ b * q := by
  rw [Nat.div_le_iff_le_mul_add_pred hb, Nat.add_le_add_iff_right]

/-- An alpha explains a colour over a background where it reaches the deviation on either side. -/
theorem alphaUnsaturated_le_iff {d g fa : Nat} (hd : d ≤ 32768) :
    alphaUnsaturated d g ≤ fa ↔
      (g < d → (d - g) * 32768 ≤ (32768 - g) * fa) ∧ (d < g → (g - d) * 32768 ≤ g * fa) := by
  rcases Nat.lt_trichotomy g d with h | rfl | h
  · rw [alphaUnsaturated, if_pos h, ceil_le_iff (by omega)]
    exact ⟨fun hq => ⟨fun _ => hq, fun hn => absurd h (Nat.lt_asymm hn)⟩, fun hq => hq.1 h⟩
  · simp only [alphaUnsaturated, Nat.lt_irrefl, if_false, Nat.zero_le, false_implies, and_self]
  · rw [alphaUnsaturated, if_neg (Nat.lt_asymm h), if_pos h, ceil_le_iff (by omega)]
    exact ⟨fun hq => ⟨fun hn => absurd h (Nat.lt_asymm hn), fun _ => hq⟩, fun hq => hq.2 h⟩

/-- On operands in range the full alpha explains every colour, so the saturation is idle (R264). -/
theorem alphaUnsaturated_le {d g : Nat} (hd : d ≤ 32768) (hg : g ≤ 32768) :
    alphaUnsaturated d g ≤ 32768 :=
  (alphaUnsaturated_le_iff hd).mpr
    ⟨fun _ => Nat.mul_le_mul_right _ (by omega), fun _ => Nat.mul_le_mul_right _ (Nat.sub_le _ _)⟩

theorem alphaNeeded_min (d g : Nat) : alphaNeeded d g = min 32768 (alphaUnsaturated d g) := by
  unfold alphaNeeded alphaUnsaturated
  split
  · rfl
  · split
    · rfl
    · exact (Nat.min_zero _).symm

theorem alphaNeeded_eq {d g : Nat} (hd : d ≤ 32768) (hg : g ≤ 32768) :
    alphaNeeded d g = alphaUnsaturated d g :=
  (alphaNeeded_min d g).trans (Nat.min_eq_right (alphaUnsaturated_le hd hg))

theorem requiredAlpha_eq (d g : Nat) : requiredAlpha d g = alphaNeeded d g := by
  have hpos : ((d : Int) - g).toNat = d - g := by omega
  have hneg : (-((d : Int) - g)).toNat = g - d := by omega
  simp only [requiredAlpha, alphaNeeded, Config.one, cdiv, hpos, hneg]
  rcases Nat.lt_trichotomy g d with h | rfl | h
  · rw [if_pos (show (d : Int) - g > 0 by omega), if_pos h]
  · simp only [Int.sub_self, Int.lt_irrefl, gt_iff_lt, Nat.lt_irrefl, if_false, Nat.min_zero]
  · rw [if_neg (show ¬ (d : Int) - g > 0 by omega), if_pos (show (d : Int) - g < 0 by omega),
      if_neg (Nat.lt_asymm h), if_pos h]

/-! ### The back-solved colour -/

theorem backSolve_eq (d g fa : Nat) : backSolve d g fa = solved d g fa := by
  rw [backSolve, solved, clamp, mul_eq]
  generalize g * fa / 32768 = x
  omega

theorem solved_le (d g fa : Nat) : solved d g fa ≤ fa := Nat.min_le_left _ _

/-- Where the alpha explains the colour, nothing of the back-solved colour is cut (R263 (b)). -/
theorem solved_add {d g fa : Nat} (hd : d ≤ 32768) (hg : g ≤ 32768) (hfa : fa ≤ 32768)
    (hq : alphaUnsaturated d g ≤ fa) : solved d g fa + g = mul g fa + d := by
  obtain ⟨habove, hbelow⟩ := (alphaUnsaturated_le_iff hd).mp hq
  have hpart : mul g fa ≤ g := mul_le_left hfa
  have hpart' : mul g fa ≤ fa := mul_le_right hg
  have hcut : g ≤ mul g fa + d ∧ mul g fa + d ≤ fa + g := by
    rcases Nat.lt_trichotomy g d with h | rfl | h
    · refine ⟨by omega, ?_⟩
      have hprod : (32768 - g) * fa = 32768 * fa - g * fa := Nat.sub_mul _ _ _
      have hle : g * fa ≤ 32768 * fa := Nat.mul_le_mul_right fa hg
      have hdev := habove h
      rw [mul_eq]
      omega
    · omega
    · refine ⟨?_, by omega⟩
      have hdev := hbelow h
      rw [mul_eq]
      omega
  rw [solved, ← mul_eq]
  omega

/-! ### The pixel rules -/

/-- A premultiplied colour over a background in range is in range (R261). -/
theorem flat_channel_le {c a g : Nat} (hc : c ≤ a) (ha : a ≤ 32768) (hg : g ≤ 32768) :
    c + mul (32768 - a) g ≤ 32768 := by
  have h : mul (32768 - a) g ≤ 32768 - a := mul_le_left hg
  omega

theorem flatResult_range3 {G D : Pixel} (hG : G.Range3) (hD : D.Premul) :
    (flatResult G D).Range3 := by
  obtain ⟨hgr, hgg, hgb⟩ := hG
  obtain ⟨hr, hg, hb, ha⟩ := hD
  exact ⟨flat_channel_le hr ha hgr, flat_channel_le hg ha hgg, flat_channel_le hb ha hgb⟩

/-- The rule's special case of alpha 0 is no exception: every channel solves to 0 there. -/
theorem unflatResult_eq (G D : Pixel) :
    unflatResult G D = ⟨solved D.r G.r (finalAlpha G D), solved D.g G.g (finalAlpha G D),
      solved D.b G.b (finalAlpha G D), finalAlpha G D⟩ := by
  rw [unflatResult]
  split
  case isTrue h => rw [h, solved, solved, solved, Nat.zero_min, Nat.zero_min, Nat.zero_min]
  case isFalse => rfl

theorem unflatten_eq (G D : Pixel) : unflatten D G.rgb = unflatResult G D := by
  simp only [unflatten, requiredAlpha_eq, backSolve_eq]
  rfl

theorem finalAlpha_le {G D : Pixel} (hD : D.a ≤ 32768) : finalAlpha G D ≤ 32768 := by
  simp only [finalAlpha, alphaNeeded_min]
  omega

theorem le_finalAlpha (G D : Pixel) : D.a ≤ finalAlpha G D := by
  unfold finalAlpha
  omega

/-- On operands in range the alpha is the greatest of the unsaturated ones (R264). -/
theorem finalAlpha_eq {G D : Pixel} (hG : G.Range3) (hD : D.Range3) :
    finalAlpha G D = max (max (max D.a (alphaUnsaturated D.r G.r)) (alphaUnsaturated D.g G.g))
      (alphaUnsaturated D.b G.b) := by
  obtain ⟨hgr, hgg, hgb⟩ := hG
  obtain ⟨hr, hg, hb⟩ := hD
  rw [finalAlpha, alphaNeeded_eq hr hgr, alphaNeeded_eq hg hgg, alphaNeeded_eq hb hgb]

theorem unflatResult_premul {G D : Pixel} (hD : D.a ≤ 32768) : (unflatResult G D).Premul := by
  rw [unflatResult_eq]
  exact ⟨solved_le _ _ _, solved_le _ _ _, solved_le _ _ _, finalAlpha_le hD⟩

theorem le_unflatResult_a (G D : Pixel) : D.a ≤ (unflatResult G D).a := by
  rw [unflatResult_eq]
  exact le_finalAlpha G D

/-! ### The commands -/

/-- The second operand is checked when the first passes (60_exceptions.md R311). -/
theorem or_check_eq_some {p q : Pixel} {l l' : Level} {o o' : Operand} {i : Nat} {f : FaultRec}
    (h : p.check l o i = some f ∨ l.holds p ∧ q.check l' o' i = some f) :
    (p.check l o i).or (q.check l' o' i) = some f := by
  rcases h with h | ⟨hp, h⟩
  · rw [h, Option.some_or]
  · rw [(Pixel.check_eq_none p l o i).mpr hp, Option.none_or, h]

theorem or_check_eq_none {p q : Pixel} {l l' : Level} {o o' : Operand} {i : Nat}
    (h : l.holds p ∧ l'.holds q) : (p.check l o i).or (q.check l' o' i) = none := by
  obtain ⟨hp, hq⟩ := h
  rw [(Pixel.check_eq_none p l o i).mpr hp, Option.none_or, (Pixel.check_eq_none q l' o' i).mpr hq]

/-- `FLAT` up to pixel `k` (R261). -/
theorem exec_flat {sa sb : Slot} {s : State} {k : Nat} {o : Option FaultRec} (hsa : sa.toNat < 4)
    (hsb : sb.toNat < 4)
    (hpass : ∀ j, j < k → (s.mem.pixel16 sb j).Range3 ∧ (s.mem.pixel16 sa j).Premul)
    (hend : ScanEnds 4096 k (((s.mem.pixel16 sb k).check .range3 .b k).or
      ((s.mem.pixel16 sa k).check .premul .a k)) o) :
    ∃ m, exec (.flat sa sb) s = .next ((s.withMem m).finish o) ∧
      (∀ j, j < k → m.pixel16 sa j = flatResult (s.mem.pixel16 sb j) (s.mem.pixel16 sa j)) ∧
      ∀ x, (∀ j, j < k → ¬ inPixel16 sa j x) → m.read x = s.mem.read x := by
  obtain ⟨m, hscan, hin, hout⟩ := (flatPixel_local sa sb).scanTile_until
    (fun j hj => or_check_eq_none (hpass j hj)) hend
  refine ⟨m, congrArg Host.Outcome.next (command_of_scan (slots_two hsa hsb) hscan),
    fun j hj => ?_, fun x hx => hout x (foot16_of_inPixel16 hx)⟩
  obtain ⟨hG, hD⟩ := hpass j hj
  rw [Memory.pixel16_eq fun x hx => hin j x hj hx]
  exact Memory.pixel16_setColour16_range (flatResult_range3 hG hD)

/-- `UNFLAT` up to pixel `k` (R262). -/
theorem exec_unflat {sa sb : Slot} {s : State} {k : Nat} {o : Option FaultRec} (hsa : sa.toNat < 4)
    (hsb : sb.toNat < 4)
    (hpass : ∀ j, j < k → (s.mem.pixel16 sb j).Range3 ∧ (s.mem.pixel16 sa j).Range4)
    (hend : ScanEnds 4096 k (((s.mem.pixel16 sb k).check .range3 .b k).or
      ((s.mem.pixel16 sa k).check .range4 .a k)) o) :
    ∃ m, exec (.unflat sa sb) s = .next ((s.withMem m).finish o) ∧
      (∀ j, j < k → m.pixel16 sa j = unflatResult (s.mem.pixel16 sb j) (s.mem.pixel16 sa j)) ∧
      ∀ x, (∀ j, j < k → ¬ inPixel16 sa j x) → m.read x = s.mem.read x := by
  obtain ⟨m, hscan, hin, hout⟩ := (unflatPixel_local sa sb).scanTile_until
    (fun j hj => or_check_eq_none (hpass j hj)) hend
  refine ⟨m, congrArg Host.Outcome.next (command_of_scan (slots_two hsa hsb) hscan),
    fun j hj => ?_, fun x hx => hout x (foot16_of_inPixel16 hx)⟩
  obtain ⟨_, _, _, _, ha⟩ := hpass j hj
  rw [Memory.pixel16_eq fun x hx => hin j x hj hx, unflatten_eq]
  exact Memory.pixel16_setPixel16_range (unflatResult_premul ha).range4

theorem foot16_of_not_inSlot {s : Slot} {x : Nat} (h : ¬ inSlot (.t16, s) x) :
    ∀ j, j < 4096 → ¬ inPixel16 s j x := fun j hj hf => foot16_inSlot h j hj (foot16_iff.mpr hf)

namespace Commands

/-- Settles O53: the scan ends past the last pixel. -/
theorem flatResult : Obligations.FlatResult := by
  unfold Obligations.FlatResult
  intro sa sb s hsa hsb hG hD
  obtain ⟨m, hexec, hin, hout⟩ := exec_flat hsa hsb (k := 4096) (fun j hj => ⟨hG j hj, hD j hj⟩)
    (.inl ⟨rfl, rfl⟩)
  refine ⟨m, hexec, fun i hi => ⟨hin i hi, ?_⟩, fun x hx => hout x (foot16_of_not_inSlot hx)⟩
  rw [hin i hi]
  exact flatResult_range3 (hG i hi) (hD i hi)

/-- Settles O54: the scan ends past the last pixel. -/
theorem unflatResult : Obligations.UnflatResult := by
  unfold Obligations.UnflatResult
  intro sa sb s hsa hsb hG hD
  obtain ⟨m, hexec, hin, hout⟩ := exec_unflat hsa hsb (k := 4096) (fun j hj => ⟨hG j hj, hD j hj⟩)
    (.inl ⟨rfl, rfl⟩)
  refine ⟨m, hexec, fun i hi => ⟨hin i hi, ?_⟩, fun x hx => hout x (foot16_of_not_inSlot hx)⟩
  obtain ⟨_, _, _, ha⟩ := hD i hi
  rw [hin i hi]
  exact ⟨unflatResult_premul ha, le_unflatResult_a _ _⟩

end Commands

/-! ### One after the other -/

/-- A background's shares at an alpha and at its complement lose at most one unit, so flattening a
back-solved colour gives the colour or one less. -/
theorem flat_solved {d g u fa : Nat} (hfa : fa ≤ 32768) (hu : u + g = mul g fa + d) :
    u + mul (32768 - fa) g = d ∨ u + mul (32768 - fa) g + 1 = d := by
  rw [mul_swap (32768 - fa)]
  rcases mul_add_mul_compl (a := g) hfa with h | h <;> omega

/-- At alpha 0 it gives the colour itself. -/
theorem flat_solved_zero {d g u : Nat} (hu : u + g = mul g 0 + d) : u + mul 32768 g = d := by
  rw [mul_right_zero] at hu
  rw [mul_swap, mul_right_one]
  omega

/-- No channel of `UNFLAT` is cut on operands in range. -/
theorem unflatResult_add {G D : Pixel} (hG : G.Range3) (hD : D.Range4) :
    (unflatResult G D).r + G.r = mul G.r (unflatResult G D).a + D.r ∧
      (unflatResult G D).g + G.g = mul G.g (unflatResult G D).a + D.g ∧
      (unflatResult G D).b + G.b = mul G.b (unflatResult G D).a + D.b := by
  obtain ⟨hr, hg, hb, ha⟩ := hD
  have hfa := finalAlpha_eq hG ⟨hr, hg, hb⟩
  have hle : finalAlpha G D ≤ 32768 := finalAlpha_le ha
  obtain ⟨hgr, hgg, hgb⟩ := hG
  rw [unflatResult_eq]
  exact ⟨solved_add hr hgr hle (by omega), solved_add hg hgg hle (by omega),
    solved_add hb hgb hle (by omega)⟩

/-- Settles O55: by the equation of the uncut back-solved colour. -/
theorem flatAfterUnflat : Obligations.FlatAfterUnflat := by
  unfold Obligations.FlatAfterUnflat
  intro G D hG hD U F
  have ⟨hgr, hgg, hgb⟩ := hG
  have ⟨hr, hg, hb, ha⟩ := hD
  obtain ⟨hur, hug, hub⟩ : U.r + G.r = mul G.r U.a + D.r ∧ U.g + G.g = mul G.g U.a + D.g ∧
    U.b + G.b = mul G.b U.a + D.b := unflatResult_add hG hD
  have hUa : U.a = finalAlpha G D := congrArg Pixel.a (unflatResult_eq G D)
  have hle : U.a ≤ 32768 := hUa ▸ finalAlpha_le ha
  refine ⟨flat_solved hle hur, flat_solved hle hug, flat_solved hle hub,
    fun _ => ⟨hur, hug, hub⟩, fun hzero => ?_, alphaUnsaturated_le hr hgr,
    alphaUnsaturated_le hg hgg, alphaUnsaturated_le hb hgb, hUa.trans (finalAlpha_eq hG ⟨hr, hg, hb⟩)⟩
  rw [hzero] at hur hug hub
  have hF : F = ⟨U.r + mul (32768 - U.a) G.r, U.g + mul (32768 - U.a) G.g,
    U.b + mul (32768 - U.a) G.b, U.a⟩ := rfl
  rw [hF, hzero]
  exact ⟨flat_solved_zero hur, flat_solved_zero hug, flat_solved_zero hub⟩

/-- The alpha that a flattened channel requires exceeds the original by at most `ceil(32767 / g)`:
the flattened colour lies above its share of the background, and below it by less than a unit. -/
theorem alphaUnsaturated_flat_le {p a g e : Nat} (hp : p ≤ a) (ha : a ≤ 32768) (hg : g ≤ 32768)
    (he : 0 < g → (32767 + (g - 1)) / g ≤ e) :
    alphaUnsaturated (p + mul (32768 - a) g) g ≤ a + e := by
  refine (alphaUnsaturated_le_iff (flat_channel_le hp ha hg)).mpr ?_
  have hcompl : (32768 - a) * g + g * a = 32768 * g := by
    rw [Nat.mul_comm g a, ← Nat.add_mul, Nat.sub_add_cancel ha]
  have hcompl' : (32768 - g) * a + g * a = 32768 * a := by
    rw [← Nat.add_mul, Nat.sub_add_cancel hg]
  rw [mul_eq, Nat.mul_add, Nat.mul_add]
  refine ⟨fun _ => ?_, fun hlt => ?_⟩
  · omega
  · have hround : 32767 ≤ g * e := (ceil_le_iff (by omega)).mp (he (by omega))
    omega

/-- Over a channel of black or white it does not exceed it. -/
theorem alphaUnsaturated_flat_extreme {p a g : Nat} (hp : p ≤ a) (ha : a ≤ 32768)
    (hg : g = 0 ∨ g = 32768) : alphaUnsaturated (p + mul (32768 - a) g) g ≤ a := by
  refine (alphaUnsaturated_le_iff (flat_channel_le hp ha (by omega))).mpr ?_
  rcases hg with rfl | rfl
  · rw [mul_right_zero]
    omega
  · rw [mul_right_one]
    omega

/-- A channel back-solved from its flattened value is at most one less than the original, and exceeds
it by at most the background's share of the alpha gained (R263 (a)). -/
theorem unflat_flat_channel {p a g u fa : Nat} (ha : a ≤ fa) (hfa : fa ≤ 32768)
    (hu : u + g = mul g fa + (p + mul (32768 - a) g)) :
    p ≤ u + 1 ∧ u ≤ p + (fa - a) * g / 32768 := by
  have hmono : mul g a ≤ mul g fa := mul_mono (Nat.le_refl g) ha
  rw [mul_swap (32768 - a)] at hu
  refine ⟨?_, ?_⟩
  · rcases mul_add_mul_compl (a := g) (Nat.le_trans ha hfa) with h | h <;> omega
  · have hsum : g * fa + g * (32768 - a) = g * 32768 + (fa - a) * g := by
      rw [← Nat.mul_add, Nat.mul_comm (fa - a), ← Nat.mul_add]
      congr 1
      omega
    rw [mul_eq, mul_eq] at hu
    omega

/-- Over black or white a channel comes back exact. -/
theorem unflat_flat_extreme {p a g u : Nat} (ha : a ≤ 32768) (hg : g = 0 ∨ g = 32768)
    (hu : u + g = mul g a + (p + mul (32768 - a) g)) : u = p := by
  rcases hg with rfl | rfl
  · rw [mul_right_zero, mul_left_zero] at hu
    omega
  · rw [mul_right_one, mul_swap, mul_right_one] at hu
    omega

/-- Settles O56: channel by channel, from the alpha that each flattened channel requires and the
equation of its uncut back-solved colour. -/
theorem unflatAfterFlat : Obligations.UnflatAfterFlat := by
  unfold Obligations.UnflatAfterFlat
  intro G P hG hP Q
  have ⟨hgr, hgg, hgb⟩ := hG
  have ⟨hr, hg, hb, ha⟩ := hP
  have hrange := flatResult_range3 hG hP
  have ⟨hdr, hdg, hdb⟩ := hrange
  have hQa : Q.a = max (max (max P.a (alphaUnsaturated (P.r + mul (32768 - P.a) G.r) G.r))
      (alphaUnsaturated (P.g + mul (32768 - P.a) G.g) G.g))
      (alphaUnsaturated (P.b + mul (32768 - P.a) G.b) G.b) :=
    (congrArg Pixel.a (unflatResult_eq G (flatResult G P))).trans (finalAlpha_eq hG hrange)
  have hle : P.a ≤ Q.a := le_unflatResult_a G (flatResult G P)
  obtain ⟨_, _, _, hone⟩ : Q.Premul := unflatResult_premul ha
  obtain ⟨hur, hug, hub⟩ : Q.r + G.r = mul G.r Q.a + (P.r + mul (32768 - P.a) G.r) ∧
    Q.g + G.g = mul G.g Q.a + (P.g + mul (32768 - P.a) G.g) ∧
    Q.b + G.b = mul G.b Q.a + (P.b + mul (32768 - P.a) G.b) :=
    unflatResult_add hG ⟨hdr, hdg, hdb, ha⟩
  obtain ⟨hrlo, hrhi⟩ := unflat_flat_channel hle hone hur
  obtain ⟨hglo, hghi⟩ := unflat_flat_channel hle hone hug
  obtain ⟨hblo, hbhi⟩ := unflat_flat_channel hle hone hub
  refine ⟨hle, fun E her heg heb => ?_, hrlo, hrhi, hglo, hghi, hblo, hbhi, fun hxr hxg hxb => ?_⟩
  · have hqr := alphaUnsaturated_flat_le hr ha hgr her
    have hqg := alphaUnsaturated_flat_le hg ha hgg heg
    have hqb := alphaUnsaturated_flat_le hb ha hgb heb
    omega
  · have hqr := alphaUnsaturated_flat_extreme hr ha hxr
    have hqg := alphaUnsaturated_flat_extreme hg ha hxg
    have hqb := alphaUnsaturated_flat_extreme hb ha hxb
    have halpha : Q.a = P.a := by omega
    rw [halpha] at hur hug hub
    have hQr := unflat_flat_extreme ha hxr hur
    have hQg := unflat_flat_extreme ha hxg hug
    have hQb := unflat_flat_extreme ha hxb hub
    show Pixel.mk Q.r Q.g Q.b Q.a = P
    rw [hQr, hQg, hQb, halpha]

end Sys2Proof.Machine
end

section
/-! PROOFS. The mipmap downscaler (46_downscale.md): the window up to where its scan ends, and the
pre-checks. -/

namespace Sys2Proof.Machine

open Sys2Proof

/-! ### One window position -/

/-- The check of one sample of window position `w`. -/
def sampleCheck (m : Memory) (sb : Slot) (w : Nat) (d : Nat × Nat) : Option FaultRec :=
  (m.pixel16 sb (downsSource (w % 32) (w / 32) d.1 d.2)).check .range4 .b
    (downsSource (w % 32) (w / 32) d.1 d.2)

/-- The check of window position `w`: `downsBlock`'s, of its four samples. -/
def downsCheck (m : Memory) (sb : Slot) (w : Nat) : Option FaultRec :=
  ((sampleCheck m sb w (0, 0)).or (sampleCheck m sb w (1, 0))).or
    ((sampleCheck m sb w (0, 1)).or (sampleCheck m sb w (1, 1)))

/-- It is the first failing one, in the order (0,0), (1,0), (0,1), (1,1) (R271). -/
theorem downsCheck_eq (m : Memory) (sb : Slot) (w : Nat) :
    downsCheck m sb w = [(0, 0), (1, 0), (0, 1), (1, 1)].findSome? (sampleCheck m sb w) := by
  simp only [downsCheck, List.findSome?_cons, List.findSome?_nil]
  cases sampleCheck m sb w (0, 0) with
  | some => rfl
  | none =>
    cases sampleCheck m sb w (1, 0) with
    | some => rfl
    | none => cases sampleCheck m sb w (0, 1) <;> cases sampleCheck m sb w (1, 1) <;> rfl

/-- Every sample of window position `w` is in range. -/
def SamplesInRange (m : Memory) (sb : Slot) (w : Nat) : Prop :=
  ∀ dx dy, dx < 2 → dy < 2 → (m.pixel16 sb (downsSource (w % 32) (w / 32) dx dy)).Range4

theorem downsCheck_eq_none {m : Memory} {sb : Slot} {w : Nat} (h : SamplesInRange m sb w) :
    downsCheck m sb w = none := by
  have hsample {dx dy : Nat} (hdx : dx < 2) (hdy : dy < 2) : sampleCheck m sb w (dx, dy) = none :=
    (Pixel.check_eq_none _ .range4 .b _).mpr (h dx dy hdx hdy)
  rw [downsCheck, hsample (by decide) (by decide), hsample (by decide) (by decide),
    hsample (by decide) (by decide), hsample (by decide) (by decide)]
  rfl

theorem boxResult_range {p q r t : Pixel} (hp : p.Range4) (hq : q.Range4) (hr : r.Range4)
    (ht : t.Range4) : (boxResult p q r t).Range4 := by
  have avg {a b c d : Nat} (ha : a ≤ 32768) (hb : b ≤ 32768) (hc : c ≤ 32768) (hd : d ≤ 32768) :
      (a + b + c + d) / 4 ≤ 32768 := by omega
  obtain ⟨hpr, hpg, hpb, hpa⟩ := hp
  obtain ⟨hqr, hqg, hqb, hqa⟩ := hq
  obtain ⟨hrr, hrg, hrb, hra⟩ := hr
  obtain ⟨htr, htg, htb, hta⟩ := ht
  exact ⟨avg hpr hqr hrr htr, avg hpg hqg hrg htg, avg hpb hqb hrb htb, avg hpa hqa hra hta⟩

theorem SamplesInRange.boxAt {m : Memory} {sb : Slot} {w : Nat} (h : SamplesInRange m sb w) :
    (m.boxAt sb (w % 32) (w / 32)).Range4 :=
  boxResult_range (h 0 0 (by decide) (by decide)) (h 1 0 (by decide) (by decide))
    (h 0 1 (by decide) (by decide)) (h 1 1 (by decide) (by decide))

/-- The average of four equal channels is the channel (R272). -/
theorem boxResult_uniform (p : Pixel) : boxResult p p p p = p := by
  have avg (c : Nat) : (c + c + c + c) / 4 = c := by omega
  simp only [boxResult, avg]

/-! ### The command -/

theorem downsPre_eq_none {sa sb : Slot} {s : State} (hab : sa ≠ sb) (hx : s.dstX.toNat ≤ 32)
    (hy : s.dstY.toNat ≤ 32) : downsPre sa sb s = none :=
  (if_neg hab).trans ((if_neg (Nat.not_lt.mpr hx)).trans (if_neg (Nat.not_lt.mpr hy)))

/-- The window's scan up to position `w`. -/
theorem downs_scan {dx dy : Nat} {sa sb : Slot} {m : Memory} {w : Nat} {o : Option FaultRec}
    (hx : dx ≤ 32) (hy : dy ≤ 32) (hab : sa ≠ sb) (hpass : ∀ v, v < w → SamplesInRange m sb v)
    (hend : ScanEnds 1024 w (downsCheck m sb w) o) :
    ∃ m', downsWindow dx dy sa sb m = (m', o) ∧
      (∀ v, v < w → m'.pixel16 sa (downsTarget dx dy (v % 32) (v / 32)) =
        m.boxAt sb (v % 32) (v / 32)) ∧
      ∀ x, (∀ v, v < w → ¬ inPixel16 sa (downsTarget dx dy (v % 32) (v / 32)) x) →
        m'.read x = m.read x := by
  obtain ⟨m', hscan, hin, hout⟩ := (downsBlock_local dx dy sa sb hx hy hab).scan_until (k := w)
    (fun v hv => downsCheck_eq_none (hpass v hv)) hend
  refine ⟨m', hscan, fun v hv => ?_, fun x hx => hout x fun v hv => not_inPixel16 (hx v hv)⟩
  rw [Memory.pixel16_eq fun x hx => hin v x hv hx]
  exact Memory.pixel16_setPixel16_range (hpass v hv).boxAt

/-- `DOWNS` on two tiles, inside the target, up to window position `w` (R271). -/
theorem exec_downs {sa sb : Slot} {s : State} {w : Nat} {o : Option FaultRec} (hsa : sa.toNat < 4)
    (hsb : sb.toNat < 4) (hab : sa ≠ sb) (hx : s.dstX.toNat ≤ 32) (hy : s.dstY.toNat ≤ 32)
    (hpass : ∀ v, v < w → SamplesInRange s.mem sb v)
    (hend : ScanEnds 1024 w (downsCheck s.mem sb w) o) :
    ∃ m, exec (.downs sa sb) s = .next ((s.withMem m).finish o) ∧
      (∀ v, v < w → m.pixel16 sa ((s.dstY.toNat + v / 32) * 64 + s.dstX.toNat + v % 32) =
        s.mem.boxAt sb (v % 32) (v / 32)) ∧
      ∀ x, (∀ v, v < w →
          ¬ inPixel16 sa ((s.dstY.toNat + v / 32) * 64 + s.dstX.toNat + v % 32) x) →
        m.read x = s.mem.read x := by
  obtain ⟨m, hscan, hin, hout⟩ := downs_scan hx hy hab hpass hend
  refine ⟨m, congrArg Host.Outcome.next ?_, hin, hout⟩
  rw [State.command_ok _ (slots_two hsa hsb), downsPre_eq_none hab hx hy]
  exact congrArg (fun r => State.finish r.1 r.2) (State.overMem_eq hscan)

/-- A pre-check that fails is the command's fault, with nothing else done (60_exceptions.md R308). -/
theorem exec_downs_pre {sa sb : Slot} {s : State} {f : FaultRec} (hsa : sa.toNat < 4)
    (hsb : sb.toNat < 4) (hpre : downsPre sa sb s = some f) :
    exec (.downs sa sb) s = .next (s.raise f) := by
  refine congrArg Host.Outcome.next ?_
  rw [State.command_ok _ (slots_two hsa hsb), hpre]
  rfl

/-- Settles O57: the scan ends past the last window position. -/
theorem downsResult : Obligations.DownsResult := by
  unfold Obligations.DownsResult
  intro sa sb s hsa hsb hab hx hy hrange
  have hsource {v dx dy : Nat} (hv : v < 1024) (hdx : dx < 2) (hdy : dy < 2) :
      downsSource (v % 32) (v / 32) dx dy < 4096 := by
    rw [downsSource, Config.tileN]
    omega
  obtain ⟨m, hexec, hin, hout⟩ := exec_downs hsa hsb hab hx hy (w := 1024)
    (fun v hv dx dy hdx hdy => hrange _ (hsource hv hdx hdy)) (.inl ⟨rfl, rfl⟩)
  have hbox (x y : Nat) (hx : x < 32) (hy : y < 32) :
      m.pixel16 sa ((s.dstY.toNat + y) * 64 + s.dstX.toNat + x) = s.mem.boxAt sb x y := by
    have h := hin (y * 32 + x) (by omega)
    rwa [show (y * 32 + x) / 32 = y by omega, show (y * 32 + x) % 32 = x by omega] at h
  refine ⟨m, hexec, hbox, fun C hC x y hx hy => ?_,
    fun a ha => hout a fun v hv => ha (v % 32) (v / 32) (by omega) (by omega)⟩
  rw [hbox x y hx hy, Memory.boxAt, hC _ (by omega), hC _ (by omega), hC _ (by omega),
    hC _ (by omega), boxResult_uniform]

/-- Settles O58: the pre-checks in their order; then the scan ends at the first sample out of range. -/
theorem downsFaults : Obligations.DownsFaults := by
  unfold Obligations.DownsFaults
  refine ⟨fun sa sb s hsa hsb hpre => ?_, fun sa sb s w f hsa hsb hab hx hy hw hpass hfault => ?_⟩
  · by_cases hab : sa = sb
    · rw [exec_downs_pre hsa hsb (if_pos hab), if_pos hab, if_pos (.inl hab)]
      rfl
    · by_cases hx : 32 < s.dstX.toNat
      · rw [exec_downs_pre hsa hsb ((if_neg hab).trans (if_pos hx)), if_neg hab, if_pos (.inr hx)]
        rfl
      · have hy : 32 < s.dstY.toNat := (hpre.resolve_left hab).resolve_left hx
        rw [exec_downs_pre hsa hsb ((if_neg hab).trans ((if_neg hx).trans (if_pos hy))), if_neg hab,
          if_neg (not_or.mpr ⟨hab, hx⟩)]
        rfl
  · exact exec_downs hsa hsb hab hx hy hpass (.inr ⟨f, hw, (downsCheck_eq _ _ _).trans hfault, rfl⟩)

end Sys2Proof.Machine
end

section
/-! PROOFS. The stroke map (47_stroke.md R281, R282), and the first data fault of each of the five tile
scans that check (60_exceptions.md R307). -/

namespace Sys2Proof.Machine

open Sys2Proof

/-! ### The stroke rule in numbers -/

theorem crossDiff_eq (bc ba ac aa : Nat) : crossDiff bc ba ac aa = absDiff (ac * ba) (bc * aa) := by
  rw [crossDiff, absDiff]
  generalize ac * ba = x
  generalize bc * aa = y
  omega

theorem colourFlag_iff (bf af : Pixel) :
    colourFlag bf af = true ↔
      (absDiff (af.r * bf.a) (bf.r * af.a) + absDiff (af.g * bf.a) (bf.g * af.a) +
        absDiff (af.b * bf.a) (bf.b * af.a)) / 32768 > max bf.a af.a / 16 := by
  rw [colourFlag, colourChange, crossDiff_eq, crossDiff_eq, crossDiff_eq, decide_eq_true_iff]
  exact Iff.rfl

theorem absFlag_iff (bf af : Pixel) : absFlag bf af = true ↔ af.a > bf.a + 8192 := by
  have hlimit : Config.one / Config.strkAbsDiv = 8192 := rfl
  rw [absFlag, alphaChange, decide_eq_true_iff, hlimit]
  omega

theorem relFlag_iff (bf af : Pixel) :
    relFlag bf af = true ↔ af.a > bf.a + 512 ∧ af.a > bf.a + bf.a / 2 := by
  have hlimit : Config.one / Config.strkRelMinDiv = 512 := rfl
  have hdiv : Config.strkRelDiv = 2 := rfl
  rw [relFlag, alphaChange, Bool.and_eq_true, decide_eq_true_iff, decide_eq_true_iff, hlimit, hdiv]
  omega

theorem strokeFlagged_iff (bf af : Pixel) :
    (colourFlag bf af || absFlag bf af || relFlag bf af) = true ↔ StrokeFlagged bf af := by
  rw [Bool.or_eq_true, Bool.or_eq_true, colourFlag_iff, absFlag_iff, relFlag_iff, or_assoc]
  exact Iff.rfl

theorem strokeCell_flagged {bf af : Pixel} (h : StrokeFlagged bf af) : strokeCell bf af = 1 :=
  if_pos ((strokeFlagged_iff bf af).mpr h)

theorem strokeCell_not_flagged {bf af : Pixel} (h : ¬ StrokeFlagged bf af) : strokeCell bf af = 0 :=
  if_neg (mt (strokeFlagged_iff bf af).mp h)

theorem strokeCell_lt (bf af : Pixel) : strokeCell bf af < 256 := by
  unfold strokeCell
  split <;> decide

/-- A pixel that has not changed is not flagged (R282 (a)). -/
theorem not_strokeFlagged_self (p : Pixel) : ¬ StrokeFlagged p p := by
  rw [StrokeFlagged]
  simp only [absDiff, Nat.sub_self]
  omega

/-- An alpha that jumps from 0 to 32768 is flagged (R282 (b)). -/
theorem strokeFlagged_of_jump {bf af : Pixel} (hbf : bf.a = 0) (haf : af.a = 32768) :
    StrokeFlagged bf af := .inr (.inl (by omega))

/-! ### The command -/

/-- `STRK` up to pixel `k` (R281). -/
theorem exec_strk {sa sb sc : Slot} {s : State} {k : Nat} {o : Option FaultRec} (hsa : sa.toNat < 1)
    (hsb : sb.toNat < 4) (hsc : sc.toNat < 4)
    (hpass : ∀ j, j < k → (s.mem.pixel16 sb j).Range4 ∧ (s.mem.pixel16 sc j).Range4)
    (hend : ScanEnds 4096 k (((s.mem.pixel16 sb k).check .range4 .b k).or
      ((s.mem.pixel16 sc k).check .range4 .c k)) o) :
    ∃ m, exec (.strk sa sb sc) s = .next ((s.withMem m).finish o) ∧
      (∀ j, j < k → m.sm sa j = strokeCell (s.mem.pixel16 sb j) (s.mem.pixel16 sc j)) ∧
      ∀ x, (∀ j, j < k → ¬ footSm sa j x) → m.read x = s.mem.read x := by
  obtain ⟨m, hscan, hin, hout⟩ := (strkPixel_local sa sb sc).scanTile_until
    (fun j hj => or_check_eq_none (hpass j hj)) hend
  refine ⟨m, congrArg Host.Outcome.next (command_of_scan (slots_three hsa hsb hsc) hscan),
    fun j hj => ?_, hout⟩
  rw [Memory.sm_eq (hin j _ hj rfl)]
  exact Memory.sm_setSm _ _ _ _ (strokeCell_lt _ _)

/-- Settles O59: the scan ends past the last pixel. -/
theorem strkResult : Obligations.StrkResult := by
  unfold Obligations.StrkResult
  intro sa sb sc s hsa hsb hsc hB hA
  obtain ⟨m, hexec, hin, hout⟩ := exec_strk hsa hsb hsc (k := 4096) (fun j hj => ⟨hB j hj, hA j hj⟩)
    (.inl ⟨rfl, rfl⟩)
  refine ⟨m, hexec, fun i hi => ?_, fun x hx => hout x (footSm_inSlot hx)⟩
  rw [hin i hi]
  refine ⟨strokeCell_flagged, strokeCell_not_flagged, fun heq => ?_,
    fun hbf haf => strokeCell_flagged (strokeFlagged_of_jump hbf haf)⟩
  rw [heq]
  exact strokeCell_not_flagged (not_strokeFlagged_self _)

/-! ### Data faults of the tile scans -/

/-- A byte outside the first `k` pixels of a storage slot belongs to none of them. -/
theorem foot8_of_range {s : Slot} {k x : Nat}
    (h : ¬ (0x40000 + s.toNat * 0x4000 ≤ x ∧ x < 0x40000 + s.toNat * 0x4000 + 4 * k)) :
    ∀ j, j < k → ¬ foot8 s j x := by
  intro j hj hf
  rw [foot8, t8Addr_eq] at hf
  omega

/-- A byte outside the first `k` cells of a stroke map is none of them. -/
theorem footSm_of_range {s : Slot} {k x : Nat}
    (h : ¬ (0x30000 + s.toNat * 0x1000 ≤ x ∧ x < 0x30000 + s.toNat * 0x1000 + k)) :
    ∀ j, j < k → ¬ footSm s j x := by
  intro j hj hf
  rw [footSm, smAddr_eq] at hf
  omega

/-- Settles O60: each of the five scans ends at its first failing check with the results before it. -/
theorem scanFaultIsPrecise : Obligations.ScanFaultIsPrecise := by
  unfold Obligations.ScanFaultIsPrecise
  intro sa sb sc s k f hsb hk
  refine ⟨fun hsa hnoise hpass hf => ?_, fun hsa hnoise hpass hf => ?_, fun hsa hpass hf => ?_,
    fun hsa hpass hf => ?_, fun hsa hsc hpass hf => ?_⟩
  · obtain ⟨m, hexec, hin, hout⟩ :=
      exec_cv16to8 hsa hsb (Nat.le_of_lt hk) hnoise hpass (.inr ⟨f, hk, hf, rfl⟩)
    exact ⟨m, hexec, hin, fun x hx => hout x (foot8_of_range hx)⟩
  · obtain ⟨m, hexec, hin, hout⟩ :=
      exec_cv16to8x hsa hsb (Nat.le_of_lt hk) hnoise hpass (.inr ⟨f, hk, hf, rfl⟩)
    exact ⟨m, hexec, hin, fun x hx => hout x (foot8_of_range hx)⟩
  · exact exec_flat hsa hsb hpass (.inr ⟨f, hk, or_check_eq_some hf, rfl⟩)
  · exact exec_unflat hsa hsb hpass (.inr ⟨f, hk, or_check_eq_some hf, rfl⟩)
  · obtain ⟨m, hexec, hin, hout⟩ :=
      exec_strk hsa hsb hsc hpass (.inr ⟨f, hk, or_check_eq_some hf, rfl⟩)
    refine ⟨m, hexec, fun j hj => ?_, fun x hx => hout x (footSm_of_range hx)⟩
    rw [hin j hj]
    exact ⟨strokeCell_flagged, strokeCell_not_flagged⟩

end Sys2Proof.Machine
end
